-- ==== Sys2Proof/Word.lean ====
section
/-! DEFINITION. The unsigned integer types of the block (00_scope.md R13): `u8`, `u16`, `u32`, bit 0 least significant. -/

namespace Sys2Proof

/-- `u8` (R13): a byte of the wire, of the buffer, an opcode, a tag. -/
abbrev Byte := BitVec 8

/-- `u16` (R13): a sync word, a checksum field, a checksum sum. -/
abbrev Half := BitVec 16

/-- `u32` (R13): the sensor's error code, carried raw (R190). -/
abbrev Word32 := BitVec 32

end Sys2Proof
end

