-- ==== Sys2Proof/Config.lean ====
section
/-! DEFINITION. What is fixed when a block instance is built (00_scope.md R5, R6, R12), and the free values the spec
calls draws (70_reset_and_hazards.md R241, 43_decoder.md R191). -/

namespace Sys2Proof

/-- `CAP` (R5): the receive buffer's capacity in bytes. -/
def CAP : Nat := 256

/-- `HDR_NOCK` (R6): header bytes of a frame without the checksum field. -/
def HDR_NOCK : Nat := 4

/-- `HDR_CK` (R6): header bytes of a frame with the checksum field. -/
def HDR_CK : Nat := 6

/-- `Cfg` (R12): the parameter record of one block instance. The constraints of R7, R9 and R10 are `Cfg.wf`
(WellFormed.lean). A state carries its instance's record in `State.cfg`, which no step writes (R33), so a claim about
every state is a claim about every instance. -/
structure Cfg where
  syncNock : Half
  syncCk : Half
  typeError : Byte := 3
  tagVector : Byte
  tagIntersection : Byte
  tagBarcode : Byte
  elemVector : Nat := 6
  elemIntersection : Nat
  elemBarcode : Nat := 4
deriving DecidableEq, Repr

/-- Profile P (95_test_vectors.md section 1): the instance the spec's own vectors use, and the one `State.reset` stands
for. PRESUMED (the spec's general knowledge G1, G2, G3): unsafe, log entry 1. No claim rests on these numbers. -/
def Config.profileP : Cfg where
  syncNock := 0xC1AE
  syncCk := 0xC1AF
  tagVector := 0x01
  tagIntersection := 0x02
  tagBarcode := 0x04
  elemIntersection := 28

/-- FREE VALUE (R241, R29): the unspecified byte that buffer index `i` holds from power-on until `RX` first writes it.
It has no body, so no claim can lean on it. Log entry 2, safe. -/
opaque Config.powerOnByte : Nat → Byte

/-- FREE VALUE (R191): the `k`-th draw of the run, for an error-code byte at an index past the buffer. It has no body.
`State.draws` counts the draws already made. Log entry 3, safe. -/
opaque Config.drawnByte : Nat → Byte

end Sys2Proof
end

