-- ==== Sys2Proof/Syntax.lean ====
section
/-! DEFINITION. The rows of spec/opcode_table.json as ONE inductive, `Instr`, and the descriptor that `POLL` carries.
The first six constructors are the block's input events (30_encoding.md R90); the others are the reserved codes, the
internal steps, the functions and the wire, result and status values that the table lists beside them. What each of
those does when it is run on its own is log entry 6. -/

namespace Sys2Proof

/-- `DecodeKind` (R93). `ARRAY` carries its record size; `rs = 0` is ill-formed (WellFormed.lean). -/
inductive DecodeKind where
  | fixed
  | array (rs : Byte)
  | tlv
deriving DecidableEq, Repr

/-- The command descriptor of a poll (R92, R150). -/
structure Descriptor where
  /-- the request opcode -/
  req : Byte
  /-- the request payload, already serialized -/
  pl : List Byte
  /-- the expected success reply opcode -/
  exp : Byte
  /-- the decoder kind -/
  dk : DecodeKind
deriving DecidableEq, Repr

inductive Instr where
  -- the input events (R90)
  | rx (b : Byte)
  | txack
  | poll (d : Descriptor)
  | reset
  | view (a : Byte)
  | status
  -- the two event codes that are no events (R91)
  | reservedEvent6
  | reservedEvent7
  -- the dispatcher's internal steps (R153, R154, R155, R158)
  | startReset (d : Descriptor)
  | txByte
  | setSent
  | harvest (d : Descriptor)
  -- the pure functions (R130, R133, R181, R182, R183, R190)
  | encodeRequest (req : Byte) (pl : List Byte)
  | verifyChecksum
  | decodeFixed
  | decodeArray (rs : Byte)
  | decodeTlv
  | decodeErrcode
  -- the wire frames (R70, R71); a reply's `ck` is its checksum field, present only with `SYNC_CK`
  | frameRequest (req : Byte) (pl : List Byte)
  | frameReply (ty : Byte) (ck : Option Half) (pl : List Byte)
  -- the wire words and bytes (R73, R8, R81)
  | syncNock
  | syncCk
  | typeError
  | typeGetVersion
  | typeVersion
  | tagVector
  | tagIntersection
  | tagBarcode
  -- the decoder kinds of a descriptor (R93)
  | dkFixed
  | dkArray (rs : Byte)
  | dkTlv
  | reservedDk3
  -- the result kinds (R96), each as the completion of a poll with that result
  | ok (d : Descriptor)
  | busy (d : Descriptor)
  | badChecksum (d : Descriptor)
  | typeErrorResult (d : Descriptor)
  | sensorError (d : Descriptor)
  | faultResult (d : Descriptor)
  | timeout
  | reservedResult7
  -- the status codes (R21), each as an answer of the status port
  | stIdle
  | stSent
  | stReceivingHeader
  | stReceivingPayload
  | stComplete
deriving DecidableEq, Repr

/-- Why a word is no instruction (Decode.lean). -/
inductive DecodeRefusal where
  /-- the word ends before its operands do -/
  | truncated
  /-- a first byte to which no row is assigned -/
  | unassigned (op : Byte)
  /-- a descriptor outside the admitted set: payload over 255 bytes, `ARRAY(0)`, decoder-kind code 3 or above (R92, R93) -/
  | badDescriptor
  /-- a reply frame's checksum-present byte that is neither 0 nor 1 -/
  | badFrame
deriving DecidableEq, Repr

end Sys2Proof
end

