-- ==== Sys2Proof/WellFormed.lean ====
section
/-! DEFINITION. The admitted descriptors, instructions and parameter records (30_encoding.md R92, R93; 41_codec.md R132;
00_scope.md R7, R9, R10). -/

namespace Sys2Proof

/-- The longest payload a length byte can say (R75, R132). -/
def maxPayload : Nat := 255

/-- `rs >= 1` (R93). -/
def DecodeKind.wf : DecodeKind → Bool
  | .fixed => true
  | .array rs => rs != 0
  | .tlv => true

/-- `wellformed(d)` of R151: "A descriptor with `len pl > 255`, or `dk = ARRAY(0)`, is refused" (R92). -/
def Descriptor.wf (d : Descriptor) : Bool :=
  decide (d.pl.length ≤ maxPayload) && d.dk.wf

/-- Well-formed instructions: the descriptor is admitted, the payload fits its length byte, the record size is not 0. -/
def Instr.wf : Instr → Bool
  | .poll d | .startReset d | .harvest d => d.wf
  | .ok d | .busy d | .badChecksum d | .typeErrorResult d | .sensorError d | .faultResult d => d.wf
  | .encodeRequest _ pl | .frameRequest _ pl | .frameReply _ _ pl => decide (pl.length ≤ maxPayload)
  | .decodeArray rs | .dkArray rs => rs != 0
  | .rx _ | .txack | .reset | .view _ | .status | .reservedEvent6 | .reservedEvent7 => true
  | .txByte | .setSent | .verifyChecksum | .decodeFixed | .decodeTlv | .decodeErrcode => true
  | .syncNock | .syncCk | .typeError | .typeGetVersion | .typeVersion => true
  | .tagVector | .tagIntersection | .tagBarcode | .dkFixed | .dkTlv | .reservedDk3 => true
  | .timeout | .reservedResult7 => true
  | .stIdle | .stSent | .stReceivingHeader | .stReceivingPayload | .stComplete => true

/-- The constraints on a parameter record: `SYNC_NOCK != SYNC_CK` (R7), `4 <= ELEM_VECTOR <= 6`,
`3 <= ELEM_BARCODE <= 4`, `ELEM_INTERSECTION >= 1` (R9), the tags pairwise distinct (R10). -/
def Cfg.wf (c : Cfg) : Bool :=
  c.syncNock != c.syncCk
    && decide (4 ≤ c.elemVector) && decide (c.elemVector ≤ 6)
    && decide (3 ≤ c.elemBarcode) && decide (c.elemBarcode ≤ 4)
    && decide (1 ≤ c.elemIntersection)
    && c.tagVector != c.tagIntersection && c.tagVector != c.tagBarcode && c.tagIntersection != c.tagBarcode

end Sys2Proof
end

