-- ==== Sys2Proof/Decode.lean ====
section
/-! DEFINITION. Event words (30_encoding.md R91, R92, R93) and their decoder and encoder. The spec fixes the 3-bit event
field `ev[2:0]`, the 8-bit operand of `RX` and `VIEW`, and the codes of a descriptor's decoder kind; it gives no layout
of a descriptor in bytes and no words at all to the rows that are not events. Both are DESIGN CHOICE (log entries 5 and
6): byte 0 is `ev` in bits 2..0 with bits 7..3 zero for an event; bits 7..3 from 1 to 7 select the other parts of the
table (the wire types 14 and 15 keep their byte); the operands follow in the order the table's row names them, two-byte
fields low byte first. -/

namespace Sys2Proof

/-- What a parser answers: a value and the bytes it did not use, or a refusal by name. -/
abbrev Parsed (α : Type) := Except DecodeRefusal (α × List Byte)

def mapParsed {α β : Type} (f : α → β) : Parsed α → Parsed β
  | .ok (a, r) => .ok (f a, r)
  | .error e => .error e

def takeByte : List Byte → Parsed Byte
  | [] => .error .truncated
  | b :: r => .ok (b, r)

def takeBytes : Nat → List Byte → Parsed (List Byte)
  | 0, r => .ok ([], r)
  | _ + 1, [] => .error .truncated
  | n + 1, b :: r => mapParsed (b :: ·) (takeBytes n r)

/-- A two-byte count, low byte first. -/
def countOf (lo hi : Byte) : Nat := lo.toNat + 256 * hi.toNat

/-- A payload: its two-byte length (at most 255, R75, R92) and its bytes. -/
def takePayload : List Byte → Parsed (List Byte)
  | lo :: hi :: r =>
    if countOf lo hi ≤ maxPayload then takeBytes (countOf lo hi) r else .error .badDescriptor
  | _ => .error .truncated

/-- `dk[1:0]`: `FIXED = 0`, `ARRAY = 1` with `rs >= 1`, `TLV = 2`, and `3` refused (R93). -/
def takeKind : List Byte → Parsed DecodeKind
  | [] => .error .truncated
  | k :: r =>
    match k.toNat with
    | 0 => .ok (.fixed, r)
    | 1 =>
      match r with
      | [] => .error .truncated
      | rs :: r' => if rs = 0 then .error .badDescriptor else .ok (.array rs, r')
    | 2 => .ok (.tlv, r)
    | _ => .error .badDescriptor

/-- A descriptor: request opcode, expected opcode, decoder kind, payload. -/
def takeDescriptor : List Byte → Parsed Descriptor
  | req :: exp :: r =>
    match takeKind r with
    | .error e => .error e
    | .ok (dk, r') => mapParsed (fun pl => { req := req, pl := pl, exp := exp, dk := dk }) (takePayload r')
  | _ => .error .truncated

/-- The record size of `ARRAY(rs)`; `rs = 0` is refused (R92). -/
def takeRecordSize : List Byte → Parsed Byte
  | [] => .error .truncated
  | rs :: r => if rs = 0 then .error .badDescriptor else .ok (rs, r)

/-- A request opcode and its payload (R130, R70). -/
def takeRequest : List Byte → Parsed (Byte × List Byte)
  | req :: r => mapParsed (fun pl => (req, pl)) (takePayload r)
  | [] => .error .truncated

/-- The checksum field of a reply frame, present or not (R71). -/
def takeCkField : List Byte → Parsed (Option Half)
  | f :: r =>
    match f.toNat with
    | 0 => .ok (none, r)
    | 1 =>
      match r with
      | lo :: hi :: r' => .ok (some (hi ++ lo), r')
      | _ => .error .truncated
    | _ => .error .badFrame
  | [] => .error .truncated

/-- The operands of a reply frame: type, checksum field, payload (R71). -/
def takeReply : List Byte → Parsed (Byte × Option Half × List Byte)
  | ty :: r =>
    match takeCkField r with
    | .error e => .error e
    | .ok (ck, r') => mapParsed (fun pl => (ty, ck, pl)) (takePayload r')
  | [] => .error .truncated

/-- Decode the instruction at the head of a byte list, total, rejecting by name, and answer the bytes left over. -/
def decode : List Byte → Parsed Instr
  | [] => .error .truncated
  | op :: r =>
    match op.toNat with
    -- bits 7..3 zero: the event codes (R91)
    | 0x00 => mapParsed Instr.rx (takeByte r)
    | 0x01 => .ok (.txack, r)
    | 0x02 => mapParsed Instr.poll (takeDescriptor r)
    | 0x03 => .ok (.reset, r)
    | 0x04 => mapParsed Instr.view (takeByte r)
    | 0x05 => .ok (.status, r)
    | 0x06 => .ok (.reservedEvent6, r)
    | 0x07 => .ok (.reservedEvent7, r)
    -- 1: internal steps
    | 0x08 => mapParsed Instr.startReset (takeDescriptor r)
    | 0x09 => .ok (.txByte, r)
    | 0x0A => .ok (.setSent, r)
    | 0x0B => mapParsed Instr.harvest (takeDescriptor r)
    -- 2: functions
    | 0x10 => mapParsed (fun q => Instr.encodeRequest q.1 q.2) (takeRequest r)
    | 0x11 => .ok (.verifyChecksum, r)
    | 0x12 => .ok (.decodeFixed, r)
    | 0x13 => mapParsed Instr.decodeArray (takeRecordSize r)
    | 0x14 => .ok (.decodeTlv, r)
    | 0x15 => .ok (.decodeErrcode, r)
    -- 3: wire frames and sync words
    | 0x18 => mapParsed (fun q => Instr.frameRequest q.1 q.2) (takeRequest r)
    | 0x19 => mapParsed (fun q => Instr.frameReply q.1 q.2.1 q.2.2) (takeReply r)
    | 0x1A => .ok (.syncNock, r)
    | 0x1B => .ok (.syncCk, r)
    -- 4: wire bytes, but for the two fixed types of R8 that no event code shadows: their word is their byte
    | 0x20 => .ok (.typeError, r)
    | 0x0E => .ok (.typeGetVersion, r)
    | 0x0F => .ok (.typeVersion, r)
    | 0x23 => .ok (.tagVector, r)
    | 0x24 => .ok (.tagIntersection, r)
    | 0x25 => .ok (.tagBarcode, r)
    -- 5: decoder kinds, bits 1..0 as R93
    | 0x28 => .ok (.dkFixed, r)
    | 0x29 => mapParsed Instr.dkArray (takeRecordSize r)
    | 0x2A => .ok (.dkTlv, r)
    | 0x2B => .ok (.reservedDk3, r)
    -- 6: result kinds, bits 2..0 as R96
    | 0x30 => mapParsed Instr.ok (takeDescriptor r)
    | 0x31 => mapParsed Instr.busy (takeDescriptor r)
    | 0x32 => mapParsed Instr.badChecksum (takeDescriptor r)
    | 0x33 => mapParsed Instr.typeErrorResult (takeDescriptor r)
    | 0x34 => mapParsed Instr.sensorError (takeDescriptor r)
    | 0x35 => mapParsed Instr.faultResult (takeDescriptor r)
    | 0x36 => .ok (.timeout, r)
    | 0x37 => .ok (.reservedResult7, r)
    -- 7: status codes, bits 2..0 as R21
    | 0x38 => .ok (.stIdle, r)
    | 0x39 => .ok (.stSent, r)
    | 0x3A => .ok (.stReceivingHeader, r)
    | 0x3B => .ok (.stReceivingPayload, r)
    | 0x3C => .ok (.stComplete, r)
    | _ => .error (.unassigned op)

/-- The instruction of one offered word. Bytes after the instruction's own are not looked at (log entry 5). -/
def decodeWord (w : List Byte) : Except DecodeRefusal Instr :=
  match decode w with
  | .ok (i, _) => .ok i
  | .error e => .error e

/-- The two length bytes of a payload, low byte first, and the payload. -/
def payloadBytes (pl : List Byte) : List Byte :=
  BitVec.ofNat 8 pl.length :: BitVec.ofNat 8 (pl.length / 256) :: pl

/-- The code of a decoder kind (R93), with `rs` after `ARRAY`'s. -/
def kindBytes : DecodeKind → List Byte
  | .fixed => [0]
  | .array rs => [1, rs]
  | .tlv => [2]

def descriptorBytes (d : Descriptor) : List Byte :=
  d.req :: d.exp :: (kindBytes d.dk ++ payloadBytes d.pl)

def ckFieldBytes : Option Half → List Byte
  | none => [0]
  | some c => [1, c.extractLsb' 0 8, c.extractLsb' 8 8]

/-- The word of an instruction, the inverse of `decode` on well-formed instructions. -/
def encode : Instr → List Byte
  | .rx b => [0x00, b]
  | .txack => [0x01]
  | .poll d => 0x02 :: descriptorBytes d
  | .reset => [0x03]
  | .view a => [0x04, a]
  | .status => [0x05]
  | .reservedEvent6 => [0x06]
  | .reservedEvent7 => [0x07]
  | .startReset d => 0x08 :: descriptorBytes d
  | .txByte => [0x09]
  | .setSent => [0x0A]
  | .harvest d => 0x0B :: descriptorBytes d
  | .encodeRequest req pl => 0x10 :: req :: payloadBytes pl
  | .verifyChecksum => [0x11]
  | .decodeFixed => [0x12]
  | .decodeArray rs => [0x13, rs]
  | .decodeTlv => [0x14]
  | .decodeErrcode => [0x15]
  | .frameRequest req pl => 0x18 :: req :: payloadBytes pl
  | .frameReply ty ck pl => 0x19 :: ty :: (ckFieldBytes ck ++ payloadBytes pl)
  | .syncNock => [0x1A]
  | .syncCk => [0x1B]
  | .typeError => [0x20]
  | .typeGetVersion => [0x0E]
  | .typeVersion => [0x0F]
  | .tagVector => [0x23]
  | .tagIntersection => [0x24]
  | .tagBarcode => [0x25]
  | .dkFixed => [0x28]
  | .dkArray rs => [0x29, rs]
  | .dkTlv => [0x2A]
  | .reservedDk3 => [0x2B]
  | .ok d => 0x30 :: descriptorBytes d
  | .busy d => 0x31 :: descriptorBytes d
  | .badChecksum d => 0x32 :: descriptorBytes d
  | .typeErrorResult d => 0x33 :: descriptorBytes d
  | .sensorError d => 0x34 :: descriptorBytes d
  | .faultResult d => 0x35 :: descriptorBytes d
  | .timeout => [0x36]
  | .reservedResult7 => [0x37]
  | .stIdle => [0x38]
  | .stSent => [0x39]
  | .stReceivingHeader => [0x3A]
  | .stReceivingPayload => [0x3B]
  | .stComplete => [0x3C]

/-- The longest instruction in bytes: a poll with `ARRAY(rs)` and 255 payload bytes. -/
def maxWordBytes : Nat := 262

/-- The low `n` bytes of `w`, least significant first. -/
def leBytes : Nat → Nat → List Byte
  | 0, _ => []
  | n + 1, w => BitVec.ofNat 8 w :: leBytes n (w / 256)

/-- A table word of `nbits` bits as bytes, zeros above it up to the longest instruction. -/
def tableBytes (nbits w : Nat) : List Byte :=
  leBytes ((nbits + 7) / 8) w ++ List.replicate (maxWordBytes - (nbits + 7) / 8) 0

/-- The instruction the decoder reads from a word numbered as spec/opcode_table.json numbers it. The word is read as an
event word: the table's other parts (wire bytes, decoder kinds, results, status codes) use the same small numbers
for other things, and one number has one reading here (log entry 6). -/
def decodeTableWord (nbits w : Nat) : Option Instr :=
  match decodeWord (tableBytes nbits w) with
  | .ok i => some i
  | .error _ => none

end Sys2Proof
end

