-- ==== Sys2Proof/Machine/State.lean ====
section
/-! DEFINITION. The state of one block (10_state.md R20, R35), what its ports put out (30_encoding.md R94, R95, R98), the
environment's side of the model (log entries 4 and 7), and the reasons a step can stop. -/

namespace Sys2Proof.Machine

/-- The transaction state `st` (R19, R21). -/
inductive TState where
  | idle
  | sent
  | receivingHeader
  | receivingPayload
  | complete
deriving DecidableEq, Repr

/-- The dispatcher phase `dph` (R30). -/
inductive Dph where
  | ready
  | tx (frame : List Byte) (i : Nat)
deriving DecidableEq, Repr

/-- The kind of a view (R94). -/
inductive ViewKind where
  | fixed
  | array
  | vector
  | intersection
  | barcode
deriving DecidableEq, Repr

/-- A view into the buffer (R64, R94): it holds no bytes. -/
structure View where
  kind : ViewKind
  offset : Nat
  count : Nat
  len : Nat
deriving DecidableEq, Repr

/-- What a decoder returns (R95). -/
inductive DecodeOut where
  | fixed (v : View)
  | array (v : View)
  | tlv (mask : BitVec 3) (vec inter bar : Option View)
deriving DecidableEq, Repr

/-- The result record of a completed poll (R95). -/
inductive Result where
  | ok (out : DecodeOut)
  | busy
  | badChecksum
  | typeError
  | sensorError (code : Word32)
  | fault
deriving DecidableEq, Repr

/-- One thing seen at the block's output ports (R34, R98, R256). -/
inductive Output where
  /-- a byte emitted on tx (R154) -/
  | tx (b : Byte)
  /-- the result of a completed poll (R95) -/
  | result (r : Result)
  /-- the answer of the buffer read port (R192) -/
  | viewByte (b : Byte)
  /-- the answer of the status port: `st` in its 3-bit code and `fault` (R98, R21) -/
  | status (st : BitVec 3) (fault : Bool)
deriving DecidableEq, Repr

/-- The value of a pure function that was run as a table row of its own (log entry 6). -/
inductive FnValue where
  /-- `ENCODE_REQUEST` -/
  | frame (bytes : List Byte)
  /-- `VERIFY_CHECKSUM` -/
  | check (b : Bool)
  /-- the decoders -/
  | decoded (out : DecodeOut)
  /-- `DECODE_ERRCODE` -/
  | code (c : Word32)
deriving DecidableEq, Repr

/-- The walker's mask and view table (R183); local to one harvest and in no state (R31). -/
structure TlvAcc where
  mask : BitVec 3 := 0
  vec : Option View := none
  inter : Option View := none
  bar : Option View := none
deriving DecidableEq, Repr

/-- The state: the nine pieces of R20, then the instance's parameters (R12), then the MODEL's own fields: the draw
counter, what the run has put out so far, and what the environment offers. -/
structure State where
  /-- transaction state (R21) -/
  st : TState
  /-- write cursor, 0..256 (R22) -/
  wc : Nat
  /-- header cursor, 0..254 (R23) -/
  hc : Nat
  /-- data cursor, 0..260 (R24) -/
  dc : Nat
  /-- payload length (R25) -/
  plen : Byte
  /-- checksum-present flag (R26) -/
  ck : Bool
  /-- overrun fault, sticky (R27) -/
  fault : Bool
  /-- the receive buffer (R29): the bytes written since power-on, by index -/
  buf : List Host.Cell
  /-- dispatcher phase (R30) -/
  dph : Dph
  /-- the instance's parameters (R12, R33): written by no step -/
  cfg : Cfg
  /-- MODEL: how many draws the run has used (R191) -/
  draws : Nat
  /-- MODEL: the observation of the run, oldest first (R256) -/
  outs : List Output
  /-- MODEL: the values of functions run as rows of their own, oldest first -/
  evals : List FnValue
  /-- MODEL: the words the agents offer from here on, in the order of the interleaving (R56) -/
  input : List (List Byte)
  /-- MODEL: offered events that wait to be enabled, oldest first (R156, D41) -/
  held : List Instr
deriving DecidableEq, Repr

/-- Why the machine stops with a fault. The overrun (R214) is not here: it is the flag `State.fault`, and the block
goes on. -/
inductive Fault where
  /-- A read reaches a buffer index at or past `CAP`, which R50 says does not exist. Raised by `within`, in `RX` at a header's
  end and in the harvest and its functions. Safe: the model stops, and R55 says that no reachable event does this. -/
  | bufferIndex (top : Nat)
deriving DecidableEq, Repr

/-- Why the machine gives an input no meaning (`refuse`, R15). -/
inductive Refusal where
  /-- An instruction whose arm has no meaning yet. Raised by `exec` only; safe. No arm is left so. -/
  | notModelled (mnemonic : String)
  /-- An offered word that decodes to nothing. Raised by `step`; safe. -/
  | undecodable (e : DecodeRefusal)
  /-- A descriptor, request or record size outside the admitted set (R92, R132, R151, R182). Raised by the instructions that
  carry one; safe: the spec refuses it too. -/
  | badDescriptor
  /-- A reply frame whose payload does not fit its length byte (R75). Raised by `FRAME_REPLY`; safe: no such frame exists. -/
  | badFrame
  /-- Event code 6 or 7: "codes 6 and 7 are not events and a model refuses them" (R91). Raised by those two rows; safe. -/
  | notAnEvent (code : Nat)
  /-- Decoder-kind code 3: "with `3` refused" (R93). Raised by that row; safe. -/
  | reservedDecoderKind
  /-- Result code 6: "`TIMEOUT` is reserved and never produced by the block" (R96, R219). Raised by that row; safe. -/
  | neverProduced
  /-- Result code 7: "`7` unused" (R96). Raised by that row; safe. -/
  | unusedResultCode
deriving DecidableEq, Repr

/-- The state after power-on of an instance with parameters `c` (R35, R241): `Idle`, cursors zero, flags clear, `Ready`;
no buffer byte is written yet, so every index reads as its draw `Config.powerOnByte`. Nothing is put out or offered. -/
def State.powerOn (c : Cfg) : State where
  st := .idle
  wc := 0
  hc := 0
  dc := 0
  plen := 0
  ck := false
  fault := false
  buf := []
  dph := .ready
  cfg := c
  draws := 0
  outs := []
  evals := []
  input := []
  held := []

/-- The machine right after power-on, with the parameters of profile P (log entry 1). -/
def State.reset : State := State.powerOn Config.profileP

end Sys2Proof.Machine
end

