-- ==== Sys2Proof/Machine/Ops.lean ====
section
/-! DEFINITION. The named operations over the buffer, the registers and the ports (00_scope.md R14, R15; 20_memory.md R50,
R51, R55; 40_receiver.md R103, R112; 60_exceptions.md R214; 70_reset_and_hazards.md R240). -/

namespace Sys2Proof.Machine

/-! ### The receive buffer -/

/-- The byte written at index `i`, if one was written since power-on. -/
def Memory.read : List Host.Cell → Nat → Option Byte
  | [], _ => none
  | (a, b) :: m, i => if a = i then some b else Memory.read m i

/-- `buf[i] <- b` (R14): the only write there is. It keeps the addresses rising. -/
def Memory.write : List Host.Cell → Nat → Byte → List Host.Cell
  | [], i, b => [(i, b)]
  | (a, c) :: m, i, b =>
    if i < a then (i, b) :: (a, c) :: m
    else if i = a then (i, b) :: m
    else (a, c) :: Memory.write m i b

/-- Addresses strictly rising from `lo` on, all below `CAP`. -/
def Memory.wfFrom : Nat → List Host.Cell → Bool
  | _, [] => true
  | lo, (a, _) :: m => decide (lo ≤ a) && decide (a < CAP) && Memory.wfFrom (a + 1) m

/-- The canonical form of the buffer. An unlisted index holds no written byte, so no entry can equal what an
unlisted index holds. -/
def Memory.wf (m : List Host.Cell) : Bool := Memory.wfFrom 0 m

/-- `buf[i]` (R14). An index never written since power-on holds its unspecified power-on byte (R29, R241). -/
def cell (s : State) (i : Nat) : Byte :=
  (Memory.read s.buf i).getD (Config.powerOnByte i)

/-- The `n` buffer bytes from index `i` on. -/
def bytesAt (s : State) : Nat → Nat → List Byte
  | _, 0 => []
  | i, n + 1 => cell s i :: bytesAt s (i + 1) n

/-- `byteAt(i)` of R190, R191: the buffer's byte as it stands, or a draw at an index past the buffer; `k` says which of the
code's four bytes is read. -/
def byteOrDraw (s : State) (k : Nat) : Byte :=
  if s.dc + k < CAP then cell s (s.dc + k) else Config.drawnByte (s.draws + k)

/-! ### Outcomes -/

/-- Run `f` after an outcome, if it is a next state. -/
def andThen (o : Host.Outcome State Fault Refusal) (f : State → Host.Outcome State Fault Refusal) :
    Host.Outcome State Fault Refusal :=
  match o with
  | .next t => f t
  | .fault r => .fault r
  | .refused r => .refused r

/-- Go on if every index below `top` exists in the buffer (R50, R55). -/
def within (top : Nat) (o : Host.Outcome State Fault Refusal) : Host.Outcome State Fault Refusal :=
  if top ≤ CAP then o else .fault (.bufferIndex top)

/-- Go on if the operands are admitted, else `refuse(BadDescriptor)` (R15, R151). -/
def admitted (ok : Bool) (o : Host.Outcome State Fault Refusal) : Host.Outcome State Fault Refusal :=
  if ok then o else .refused .badDescriptor

/-- A step that is not enabled in this state: nothing happens (D41). -/
def hold (s : State) : Host.Outcome State Fault Refusal := .next s

/-! ### The registers and ports -/

/-- R103: the byte is written at the write cursor. -/
def store (b : Byte) (s : State) : State :=
  { s with buf := Memory.write s.buf s.wc b }

/-- R112: the write cursor moves by one. -/
def advance (s : State) : State := { s with wc := s.wc + 1 }

/-- `raise Overrun` (R15, R102, R214): the sticky flag is set and nothing else changes. There is no trap entry (R221). -/
def raiseOverrun (s : State) : State := { s with fault := true }

/-- R240: every register of R20 except `buf` at its reset value. It is the only way out of the overrun fault (R221). -/
def fullReset (s : State) : State :=
  { s with st := .idle, wc := 0, hc := 0, dc := 0, plen := 0, ck := false, fault := false, dph := .ready }

/-- Something is seen at an output port. -/
def put (o : Output) (s : State) : State := { s with outs := s.outs ++ [o] }

/-- `return r` (R15): the result goes to the result port. -/
def answer (r : Result) (s : State) : State := put (.result r) s

/-- The value of a pure function run as a row of its own; no state of the block changes. -/
def evaluate (v : FnValue) (s : State) : State := { s with evals := s.evals ++ [v] }

/-- `DECODE_ERRCODE` has used four draws, whether or not a byte lay past the buffer. -/
def useDraws (s : State) : State := { s with draws := s.draws + 4 }

end Sys2Proof.Machine
end

