-- ==== Sys2Proof/Machine/Operands.lean ====
section
/-! DEFINITION. The operand forms: multi-byte values (00_scope.md R14, 20_memory.md R53), the fields of a frame in the
buffer (30_encoding.md R71, R72), the frames as byte lists (R70, R71), the record kinds (R9, R80, R81), and the port
codes of results and states (R96, R21). -/

namespace Sys2Proof.Machine

/-! ### Little-endian values (R14, R53) -/

/-- `LE16(lo, hi) = zext_16(lo) | (zext_16(hi) << 8)`. -/
def le16 (lo hi : Byte) : Half := hi ++ lo

/-- The four-byte little-endian value. -/
def le32 (b0 b1 b2 b3 : Byte) : Word32 := b3 ++ b2 ++ b1 ++ b0

/-- `v[7:0]`. -/
def loByte (v : Half) : Byte := v.extractLsb' 0 8

/-- `v[15:8]`. -/
def hiByte (v : Half) : Byte := v.extractLsb' 8 8

/-! ### Header fields (R72) -/

/-- The header size that the sync value selects (R6, R77). -/
def headerSize (ck : Bool) : Nat := if ck then HDR_CK else HDR_NOCK

/-- The type byte `buf[hc+2]`. -/
def typeByte (s : State) : Byte := cell s (s.hc + 2)

/-- The length byte `buf[hc+3]`. -/
def lengthByte (s : State) : Byte := cell s (s.hc + 3)

/-- The checksum field `LE16(buf[hc+4], buf[hc+5])`. -/
def checksumField (s : State) : Half := le16 (cell s (s.hc + 4)) (cell s (s.hc + 5))

/-- The first index after the payload, `dc + plen`. -/
def frameEnd (s : State) : Nat := s.dc + s.plen.toNat

/-! ### Frames as bytes -/

/-- The request frame (R70): `SYNC_NOCK` low byte first, type, length, payload; never a checksum (R131). -/
def requestFrame (c : Cfg) (req : Byte) (pl : List Byte) : List Byte :=
  [loByte c.syncNock, hiByte c.syncNock, req, BitVec.ofNat 8 pl.length] ++ pl

/-- The reply frame (R71): with a checksum field the sync word is `SYNC_CK`, without one `SYNC_NOCK`. -/
def replyFrame (c : Cfg) (ty : Byte) (ck : Option Half) (pl : List Byte) : List Byte :=
  match ck with
  | none => [loByte c.syncNock, hiByte c.syncNock, ty, BitVec.ofNat 8 pl.length] ++ pl
  | some f => [loByte c.syncCk, hiByte c.syncCk, ty, BitVec.ofNat 8 pl.length, loByte f, hiByte f] ++ pl

/-! ### Record kinds (R9, R81) -/

/-- The three recognized record kinds. -/
inductive RecordKind where
  | vector
  | intersection
  | barcode
deriving DecidableEq, Repr

/-- The kind a tag selects, tested in the order of R183; none for an unrecognized tag (R184). -/
def recordKind (c : Cfg) (tag : Byte) : Option RecordKind :=
  if tag = c.tagVector then some .vector
  else if tag = c.tagIntersection then some .intersection
  else if tag = c.tagBarcode then some .barcode
  else none

/-- `ELEM(kind)`. -/
def elemSize (c : Cfg) : RecordKind → Nat
  | .vector => c.elemVector
  | .intersection => c.elemIntersection
  | .barcode => c.elemBarcode

/-- The kind of view a record gives. -/
def viewKind : RecordKind → ViewKind
  | .vector => .vector
  | .intersection => .intersection
  | .barcode => .barcode

/-! ### Port codes -/

/-- The 3-bit code of `st` (R21). Codes 5 to 7 never occur. -/
def stCode : TState → BitVec 3
  | .idle => 0
  | .sent => 1
  | .receivingHeader => 2
  | .receivingPayload => 3
  | .complete => 4

/-- The kinds of result the block produces (R95, R96). -/
inductive ResultKind where
  | ok
  | busy
  | badChecksum
  | typeError
  | sensorError
  | fault
deriving DecidableEq, Repr

/-- The kind of a result. -/
def resultKind : Result → ResultKind
  | .ok _ => .ok
  | .busy => .busy
  | .badChecksum => .badChecksum
  | .typeError => .typeError
  | .sensorError _ => .sensorError
  | .fault => .fault

/-- The 3-bit code of a result kind (R96). Code 6 is never produced and code 7 is unused. -/
def resultCode : ResultKind → BitVec 3
  | .ok => 0
  | .busy => 1
  | .badChecksum => 2
  | .typeError => 3
  | .sensorError => 4
  | .fault => 5

end Sys2Proof.Machine
end

