-- ==== Sys2Proof/Machine/Flags.lean ====
section
/-! DEFINITION. Every flag the spec computes: the sync match and the checksum-present flag (40_receiver.md R105, R106), the
checksum comparison (41_codec.md R133, R134), the result mask's bits (30_encoding.md R82), the status port's word (R98), and
when a byte is on offer (42_dispatcher.md R154, R155). The overrun flag is `raiseOverrun` (Ops.lean). -/

namespace Sys2Proof.Machine

/-- "If `w` equals `SYNC_CK` or `SYNC_NOCK`" (R105). -/
def isSync (c : Cfg) (w : Half) : Bool := w == c.syncCk || w == c.syncNock

/-- `ck <- (w = SYNC_CK)` (R106). -/
def ckOf (c : Cfg) (w : Half) : Bool := w == c.syncCk

/-- The additive sum of bytes, each unsigned, modulo 2^16 (R134). -/
def checksum : List Byte → Half
  | [] => 0
  | b :: bs => b.setWidth 16 + checksum bs

/-- `VERIFY_CHECKSUM()` (R133): the sum of the `buf[hc+3]` payload bytes equals the checksum field. -/
def checksumMatches (s : State) : Bool :=
  checksum (bytesAt s s.dc (lengthByte s).toNat) == checksumField s

/-- The mask bit of a record kind (R82): bit 0 vector, bit 1 intersection, bit 2 barcode. -/
def maskBit : RecordKind → BitVec 3
  | .vector => 0b001
  | .intersection => 0b010
  | .barcode => 0b100

/-- The status port's word `{st, fault}` (R98). -/
def statusWord (s : State) : Output := .status (stCode s.st) s.fault

/-- The byte on offer on tx: `frame[i]` while `dph = Tx(frame, i)` with `i < len frame` (R154). -/
def offered : Dph → Option Byte
  | .ready => none
  | .tx f i => f[i]?

/-- Every byte of the request has been accepted: `dph = Tx(f, len f)` (R155). -/
def allSent : Dph → Bool
  | .ready => false
  | .tx f i => i == f.length

end Sys2Proof.Machine
end

