-- ==== Sys2Proof/Machine/Codec.lean ====
section
/-! DEFINITION. The wire frame codec's two pure functions run as rows of their own (41_codec.md R130, R133). The functions
are `requestFrame` (Operands.lean) and `checksumMatches` (Flags.lean). -/

namespace Sys2Proof.Machine

/-- One more than the largest index `VERIFY_CHECKSUM` reads (R136(d)). -/
def checksumTop (s : State) : Nat :=
  max (s.hc + 6) (if lengthByte s = 0 then 0 else s.dc + (lengthByte s).toNat)

/-- `ENCODE_REQUEST(req, pl)` (R130); a payload over 255 bytes is refused (R132). -/
def execEncodeRequest (req : Byte) (pl : List Byte) (s : State) : Host.Outcome State Fault Refusal :=
  admitted (decide (pl.length ≤ maxPayload)) (.next (evaluate (.frame (requestFrame s.cfg req pl)) s))

/-- `VERIFY_CHECKSUM()` (R133). -/
def execVerifyChecksum (s : State) : Host.Outcome State Fault Refusal :=
  within (checksumTop s) (.next (evaluate (.check (checksumMatches s)) s))

end Sys2Proof.Machine
end

