-- ==== Sys2Proof/Machine/Decoder.lean ====
section
/-! DEFINITION. The typed response decoder and the record walker (43_decoder.md R180 to R191), with the rows that run a decoder
on its own and the decoder-kind rows of a descriptor (R93). -/

namespace Sys2Proof.Machine

/-- R181. -/
def decodeFixed (s : State) : DecodeOut :=
  .fixed { kind := .fixed, offset := s.dc, count := 1, len := s.plen.toNat }

/-- R182. -/
def decodeArray (rs : Byte) (s : State) : DecodeOut :=
  .array
    { kind := .array, offset := s.dc, count := s.plen.toNat / rs.toNat,
      len := (s.plen.toNat / rs.toNat) * rs.toNat }

/-- The view of a recognized record with body length `len` and first body byte at `offset` (R185). -/
def recordView (c : Cfg) (k : RecordKind) (offset len : Nat) : View :=
  { kind := viewKind k, offset := offset, count := len / elemSize c k, len := len }

/-- A record joins the mask and the view table: its bit is set and its view replaces an earlier one of its kind (R183,
R186); an unrecognized tag does neither (R184). -/
def recordSeen (c : Cfg) (tag : Byte) (offset len : Nat) (acc : TlvAcc) : TlvAcc :=
  match recordKind c tag with
  | none => acc
  | some .vector =>
    { acc with mask := acc.mask ||| maskBit .vector, vec := some (recordView c .vector offset len) }
  | some .intersection =>
    { acc with
      mask := acc.mask ||| maskBit .intersection
      inter := some (recordView c .intersection offset len) }
  | some .barcode =>
    { acc with mask := acc.mask ||| maskBit .barcode, bar := some (recordView c .barcode offset len) }

/-- The walk of R183 from index `p` up to `stop`. `fuel` bounds the passes: each advances `p` by at least 2 (R189). -/
def walk (s : State) (stop : Nat) : Nat → Nat → TlvAcc → TlvAcc
  | 0, _, acc => acc
  | fuel + 1, p, acc =>
    if p < stop then
      if stop < p + 2 then acc
      else if stop < p + 2 + (cell s (p + 1)).toNat then acc
      else
        walk s stop fuel (p + 2 + (cell s (p + 1)).toNat)
          (recordSeen s.cfg (cell s p) (p + 2) (cell s (p + 1)).toNat acc)
    else acc

/-- The most passes a walk can make (R189). -/
def walkFuel (s : State) : Nat := s.plen.toNat / 2 + 1

/-- The mask and views as a decoder's output (R183, R95). -/
def tlvOut (acc : TlvAcc) : DecodeOut := .tlv acc.mask acc.vec acc.inter acc.bar

/-- R183. -/
def decodeTlv (s : State) : DecodeOut :=
  tlvOut (walk s (frameEnd s) (walkFuel s) s.dc {})

/-- R180: the decoder that the descriptor's kind selects. -/
def decodePayload (dk : DecodeKind) (s : State) : DecodeOut :=
  match dk with
  | .fixed => decodeFixed s
  | .array rs => decodeArray rs s
  | .tlv => decodeTlv s

/-- R190, R191: the four bytes at `dc`, raw. -/
def errorCode (s : State) : Word32 :=
  le32 (byteOrDraw s 0) (byteOrDraw s 1) (byteOrDraw s 2) (byteOrDraw s 3)

/-- One more than the largest index that the walk of R183 from index `p` up to `stop` reads: each pass with room for a prefix
reads `buf[p]` and `buf[p+1]`, and the walk goes on after a record that fits; 0 if no pass reads. Nothing is asked of the
bytes after a prefix past the buffer. -/
def walkTop (s : State) (stop : Nat) : Nat → Nat → Nat
  | 0, _ => 0
  | fuel + 1, p =>
    if stop < p + 2 then 0
    else if CAP < p + 2 ∨ stop < p + 2 + (cell s (p + 1)).toNat then p + 2
    else max (p + 2) (walkTop s stop fuel (p + 2 + (cell s (p + 1)).toNat))

/-- One more than the largest index a decoder reads: only the walker reads the buffer (R180, R189). DESIGN CHOICE (log entry 8):
run on its own with `dc + plen > CAP`, which R55 says no harvest does, the walker answers as R183 says unless it comes to a
prefix past the buffer; only such a read stops it. -/
def decodeTop (dk : DecodeKind) (s : State) : Nat :=
  match dk with
  | .fixed | .array _ => 0
  | .tlv => walkTop s (frameEnd s) (walkFuel s) s.dc

/-- A decoder run on its own. -/
def evaluateDecoder (dk : DecodeKind) (s : State) : Host.Outcome State Fault Refusal :=
  admitted dk.wf (within (decodeTop dk s) (.next (evaluate (.decoded (decodePayload dk s)) s)))

/-- `DECODE_FIXED()` (R181). -/
def execDecodeFixed (s : State) : Host.Outcome State Fault Refusal := evaluateDecoder .fixed s

/-- `DECODE_ARRAY(rs)` (R182). -/
def execDecodeArray (rs : Byte) (s : State) : Host.Outcome State Fault Refusal := evaluateDecoder (.array rs) s

/-- `DECODE_TLV()` (R183). -/
def execDecodeTlv (s : State) : Host.Outcome State Fault Refusal := evaluateDecoder .tlv s

/-- `DECODE_ERRCODE()` (R190). -/
def execDecodeErrcode (s : State) : Host.Outcome State Fault Refusal :=
  .next (useDraws (evaluate (.code (errorCode s)) s))

/-- `dk = FIXED` (R93): it selects `DECODE_FIXED` (R180). -/
def execDkFixed (s : State) : Host.Outcome State Fault Refusal := evaluateDecoder .fixed s

/-- `dk = ARRAY(rs)` (R93): it selects `DECODE_ARRAY(rs)` (R180). -/
def execDkArray (rs : Byte) (s : State) : Host.Outcome State Fault Refusal := evaluateDecoder (.array rs) s

/-- `dk = TLV` (R93): it selects `DECODE_TLV` (R180). -/
def execDkTlv (s : State) : Host.Outcome State Fault Refusal := evaluateDecoder .tlv s

/-- Decoder-kind code 3: "with `3` refused" (R93). -/
def execReservedDk3 (_ : State) : Host.Outcome State Fault Refusal := .refused .reservedDecoderKind

end Sys2Proof.Machine
end

