-- ==== Sys2Proof/Machine/Dispatcher.lean ====
section
/-! DEFINITION. The transaction dispatcher (42_dispatcher.md R150 to R163): `POLL`, the steps of a transaction start,
`TXACK`, and the harvest. -/

namespace Sys2Proof.Machine

/-! ### The transaction start (R152 to R155) -/

/-- R153: the write cursor goes back to 0 and the request frame is latched. -/
def startTransaction (req : Byte) (pl : List Byte) (s : State) : State :=
  { s with wc := 0, dph := .tx (requestFrame s.cfg req pl) 0 }

/-- R154: the byte on offer is emitted and the next one is on offer; no step without a byte on offer. -/
def sendByte (s : State) : Host.Outcome State Fault Refusal :=
  match s.dph with
  | .ready => hold s
  | .tx f i =>
    match f[i]? with
    | some b => .next (put (.tx b) { s with dph := .tx f (i + 1) })
    | none => hold s

/-- The result of a start (R155): `FAULT` if an overrun was recorded during the transmission. -/
def startResult (s : State) : Result := if s.fault then .fault else .busy

/-- R155: the start completes. Enabled when every byte is accepted. -/
def finishStart (s : State) : Host.Outcome State Fault Refusal :=
  if allSent s.dph then .next (answer (startResult s) { s with st := .sent, dph := .ready }) else hold s

/-! ### The harvest (R158 to R162) -/

/-- The result of a harvest. The tests are made in the order of R217: checksum, expected type, error type. -/
def harvestResult (d : Descriptor) (s : State) : Result :=
  if s.ck && !checksumMatches s then .badChecksum
  else if typeByte s = d.exp then .ok (decodePayload d.dk s)
  else if typeByte s = s.cfg.typeError then .sensorError (errorCode s)
  else .typeError

/-- One more than the largest index the tests that are made, and the decoder that runs, read. -/
def harvestTop (d : Descriptor) (s : State) : Nat :=
  max (s.hc + 3)
    (max (if s.ck then checksumTop s else 0)
      (if resultKind (harvestResult d s) = .ok then decodeTop d.dk s else 0))

/-- The draw counter moves when an error code was read (R191). -/
def countDraws (r : Result) (s : State) : State :=
  match r with
  | .sensorError _ => useDraws s
  | .ok _ | .busy | .badChecksum | .typeError | .fault => s

/-- R158: the result is returned and `st <- Idle` in every outcome; no other register is written. -/
def harvestWith (d : Descriptor) (s : State) : Host.Outcome State Fault Refusal :=
  within (harvestTop d s)
    (.next (countDraws (harvestResult d s) (answer (harvestResult d s) { s with st := .idle })))

/-! ### The poll (R151, R218) -/

/-- R151: an ill-formed descriptor is refused first; while a start transmits there is no step (R156); then the fault (R163),
then the state selects start, `BUSY` (R157) or harvest. -/
def pollWith (d : Descriptor) (s : State) : Host.Outcome State Fault Refusal :=
  admitted d.wf
    (match s.dph with
    | .tx _ _ => hold s
    | .ready =>
      if s.fault then .next (answer .fault s)
      else
        match s.st with
        | .idle => .next (startTransaction d.req d.pl s)
        | .sent | .receivingHeader | .receivingPayload => .next (answer .busy s)
        | .complete => harvestWith d s)

/-- `POLL d` (R151). -/
def execPoll (d : Descriptor) (s : State) : Host.Outcome State Fault Refusal := pollWith d s

/-- `TXACK` (R154). -/
def execTxack (s : State) : Host.Outcome State Fault Refusal := sendByte s

/-- `TX_BYTE` (R154), the step that `TXACK` drives. -/
def execTxByte (s : State) : Host.Outcome State Fault Refusal := sendByte s

/-- `START_RESET(d)` (R153), triggered by a poll in `Idle` with `fault = 0`; no step otherwise. -/
def execStartReset (d : Descriptor) (s : State) : Host.Outcome State Fault Refusal :=
  admitted d.wf
    (if s.dph = .ready ∧ s.fault = false ∧ s.st = .idle then .next (startTransaction d.req d.pl s) else hold s)

/-- `SET_SENT` (R155). -/
def execSetSent (s : State) : Host.Outcome State Fault Refusal := finishStart s

/-- `HARVEST(d)` (R158), triggered by a poll in `Complete` with `fault = 0`; no step otherwise. -/
def execHarvest (d : Descriptor) (s : State) : Host.Outcome State Fault Refusal :=
  admitted d.wf
    (if s.dph = .ready ∧ s.fault = false ∧ s.st = .complete then harvestWith d s else hold s)

end Sys2Proof.Machine
end

