-- ==== Sys2Proof/Machine/Ports.lean ====
section
/-! DEFINITION. The host's events: `RESET` (70_reset_and_hazards.md R240), `VIEW` and `STATUS` (43_decoder.md R192, R193), the
status codes (10_state.md R21) and the two event codes that are no events (30_encoding.md R91). -/

namespace Sys2Proof.Machine

/-- `RESET` (R240): always enabled; a transmission in progress is abandoned and its poll returns nothing. -/
def execReset (s : State) : Host.Outcome State Fault Refusal := .next (fullReset s)

/-- `VIEW a` (R192): always enabled, any index. -/
def execView (a : Byte) (s : State) : Host.Outcome State Fault Refusal :=
  .next (put (.viewByte (cell s a.toNat)) s)

/-- `STATUS` (R193): always enabled. -/
def execStatus (s : State) : Host.Outcome State Fault Refusal := .next (put (statusWord s) s)

/-- A status code of R21 as a step: the status read that answers it; no step in another state. -/
def statusIs (t : TState) (s : State) : Host.Outcome State Fault Refusal :=
  if s.st = t then .next (put (statusWord s) s) else hold s

/-- `Idle = 0` (R21). -/
def execStIdle (s : State) : Host.Outcome State Fault Refusal := statusIs .idle s

/-- `Sent = 1` (R21). -/
def execStSent (s : State) : Host.Outcome State Fault Refusal := statusIs .sent s

/-- `ReceivingHeader = 2` (R21). -/
def execStReceivingHeader (s : State) : Host.Outcome State Fault Refusal := statusIs .receivingHeader s

/-- `ReceivingPayload = 3` (R21). -/
def execStReceivingPayload (s : State) : Host.Outcome State Fault Refusal := statusIs .receivingPayload s

/-- `Complete = 4` (R21). -/
def execStComplete (s : State) : Host.Outcome State Fault Refusal := statusIs .complete s

/-- Event code 6: "codes 6 and 7 are not events and a model refuses them" (R91). -/
def execReservedEvent6 (_ : State) : Host.Outcome State Fault Refusal := .refused (.notAnEvent 6)

/-- Event code 7 (R91). -/
def execReservedEvent7 (_ : State) : Host.Outcome State Fault Refusal := .refused (.notAnEvent 7)

end Sys2Proof.Machine
end

