-- ==== Sys2Proof/Machine/Receiver.lean ====
section
/-! DEFINITION. The frame receiver state machine, `RX` (40_receiver.md R100 to R112). -/

namespace Sys2Proof.Machine

/-- R105, R106: sync detection in `Sent`, on a state whose byte at `wc` is just stored. -/
def detectSync (s : State) : State :=
  if 1 ≤ s.wc then
    let w := le16 (cell s (s.wc - 1)) (cell s s.wc)
    if isSync s.cfg w then
      { s with
        hc := s.wc - 1
        ck := ckOf s.cfg w
        dc := (s.wc - 1) + headerSize (ckOf s.cfg w)
        st := .receivingHeader }
    else s
  else s

/-- R108, R109, R110: the payload length is read, and a zero length ends the frame at once. -/
def takeLength (s : State) : State :=
  { s with
    plen := lengthByte s
    st := if lengthByte s = 0 then .idle else .receivingPayload }

/-- R111: the last payload byte completes the frame. -/
def finishPayload (s : State) : State :=
  if frameEnd s ≤ s.wc + 1 then { s with st := .complete } else s

/-- The state's rule of R100, on a state whose byte at `wc` is just stored. Only the header's end reads an index that a
state out of R28 could put past the buffer. -/
def receiveRule (s : State) : Host.Outcome State Fault Refusal :=
  match s.st with
  | .idle | .complete => .next s
  | .sent => .next (detectSync s)
  | .receivingHeader =>
    if s.dc ≤ s.wc + 1 then within (s.hc + 4) (.next (takeLength s)) else .next s
  | .receivingPayload => .next (finishPayload s)

/-- R100: one byte delivered by the channel. `wc = CAP` is tested as `CAP <= wc`: `wc` is at most 256 (R22). -/
def receive (b : Byte) (s : State) : Host.Outcome State Fault Refusal :=
  if s.fault then .next s
  else if CAP ≤ s.wc then .next (raiseOverrun s)
  else andThen (receiveRule (store b s)) (fun t => .next (advance t))

/-- The bytes of a list delivered one after the other (R57). -/
def receiveAll : List Byte → State → Host.Outcome State Fault Refusal
  | [], s => .next s
  | b :: bs, s => andThen (receive b s) (receiveAll bs)

/-- `RX b` (R100). -/
def execRx (b : Byte) (s : State) : Host.Outcome State Fault Refusal := receive b s

end Sys2Proof.Machine
end

