-- ==== Sys2Proof/Machine/Results.lean ====
section
/-! DEFINITION. The result kinds of the table as steps (30_encoding.md R95, R96; log entry 6): the completion of a poll with
that result, and with whatever that completion does to the block; no step where the poll does not complete so. -/

namespace Sys2Proof.Machine

/-- The result with which a poll of `d` completes in this state, if a poll completes here at all: at once (R151), or a
start's at SET_SENT (R155). A poll in `Idle` only starts (R152). -/
def completion (d : Descriptor) (s : State) : Option Result :=
  match s.dph with
  | .tx f i => if allSent (.tx f i) then some (startResult s) else none
  | .ready =>
    if s.fault then some .fault
    else
      match s.st with
      | .idle => none
      | .sent | .receivingHeader | .receivingPayload => some .busy
      | .complete => some (harvestResult d s)

/-- The step that completes it: SET_SENT for a start, the poll itself otherwise. -/
def completionStep (d : Descriptor) (s : State) : Host.Outcome State Fault Refusal :=
  match s.dph with
  | .tx _ _ => finishStart s
  | .ready => pollWith d s

/-- A poll of `d` that completes with a result of kind `k`. -/
def completeWith (k : ResultKind) (d : Descriptor) (s : State) : Host.Outcome State Fault Refusal :=
  admitted d.wf (if (completion d s).map resultKind = some k then completionStep d s else hold s)

/-- `OK` (R96 code 0, R160). -/
def execOk (d : Descriptor) (s : State) : Host.Outcome State Fault Refusal := completeWith .ok d s

/-- `BUSY` (R96 code 1, R157, R155). -/
def execBusy (d : Descriptor) (s : State) : Host.Outcome State Fault Refusal := completeWith .busy d s

/-- `BAD_CHECKSUM` (R96 code 2, R159). -/
def execBadChecksum (d : Descriptor) (s : State) : Host.Outcome State Fault Refusal := completeWith .badChecksum d s

/-- `TYPE_ERROR` the result (R96 code 3, R162). -/
def execTypeErrorResult (d : Descriptor) (s : State) : Host.Outcome State Fault Refusal := completeWith .typeError d s

/-- `SENSOR_ERROR` (R96 code 4, R161). -/
def execSensorError (d : Descriptor) (s : State) : Host.Outcome State Fault Refusal := completeWith .sensorError d s

/-- `FAULT` (R96 code 5, R163, R155). -/
def execFaultResult (d : Descriptor) (s : State) : Host.Outcome State Fault Refusal := completeWith .fault d s

/-- Result code 6: "`TIMEOUT` is reserved and never produced by the block" (R96, R219). -/
def execTimeout (_ : State) : Host.Outcome State Fault Refusal := .refused .neverProduced

/-- Result code 7: "`7` unused" (R96). -/
def execReservedResult7 (_ : State) : Host.Outcome State Fault Refusal := .refused .unusedResultCode

end Sys2Proof.Machine
end

