-- ==== Sys2Proof/Machine/Wire.lean ====
section
/-! DEFINITION. The wire rows of the table as steps (log entry 6): a frame or value that travels to the block is delivered
byte by byte through `RX` (40_receiver.md R100, R57), low byte first (30_encoding.md R73); a request frame travels from
the block and is a whole transaction start with no other step between (42_dispatcher.md R152 to R155). -/

namespace Sys2Proof.Machine

/-- `TX_BYTE` once for each of `n` bytes (R154). -/
def sendBytes : Nat → State → Host.Outcome State Fault Refusal
  | 0, s => .next s
  | n + 1, s => andThen (sendByte s) (sendBytes n)

/-- `FRAME_REQUEST` (R70): START_RESET, one TX_BYTE per byte of the frame, SET_SENT; no step where a start is not
enabled. -/
def execFrameRequest (req : Byte) (pl : List Byte) (s : State) : Host.Outcome State Fault Refusal :=
  admitted (decide (pl.length ≤ maxPayload))
    (if s.dph = .ready ∧ s.fault = false ∧ s.st = .idle then
      andThen (sendBytes (requestFrame s.cfg req pl).length (startTransaction req pl s)) finishStart
    else hold s)

/-- `FRAME_REPLY` (R71): the channel delivers the frame. Its length byte cannot say more than 255 (R75). -/
def execFrameReply (ty : Byte) (ck : Option Half) (pl : List Byte) (s : State) :
    Host.Outcome State Fault Refusal :=
  if pl.length ≤ maxPayload then receiveAll (replyFrame s.cfg ty ck pl) s else .refused .badFrame

/-- A sync word on the wire, low byte first (R73). -/
def receiveWord (w : Half) (s : State) : Host.Outcome State Fault Refusal :=
  receiveAll [loByte w, hiByte w] s

/-- `SYNC_NOCK` (R73). -/
def execSyncNock (s : State) : Host.Outcome State Fault Refusal := receiveWord s.cfg.syncNock s

/-- `SYNC_CK` (R73). -/
def execSyncCk (s : State) : Host.Outcome State Fault Refusal := receiveWord s.cfg.syncCk s

/-- `TYPE_ERROR` (R8), the parameter's byte on the wire. -/
def execTypeError (s : State) : Host.Outcome State Fault Refusal := receive s.cfg.typeError s

/-- `TYPE_GET_VERSION = 14` (R8): the block does not know it; on the wire it is a byte like any other (R88). -/
def execTypeGetVersion (s : State) : Host.Outcome State Fault Refusal := receive 14 s

/-- `TYPE_VERSION = 15` (R8). -/
def execTypeVersion (s : State) : Host.Outcome State Fault Refusal := receive 15 s

/-- `TAG_VECTOR` (R81). -/
def execTagVector (s : State) : Host.Outcome State Fault Refusal := receive s.cfg.tagVector s

/-- `TAG_INTERSECTION` (R81). -/
def execTagIntersection (s : State) : Host.Outcome State Fault Refusal := receive s.cfg.tagIntersection s

/-- `TAG_BARCODE` (R81). -/
def execTagBarcode (s : State) : Host.Outcome State Fault Refusal := receive s.cfg.tagBarcode s

end Sys2Proof.Machine
end

