-- ==== Sys2Proof/Machine/Dispatch.lean ====
section
/-! DEFINITION. The meaning of every row of spec/opcode_table.json: one arm per constructor, one direct call each. -/

namespace Sys2Proof.Machine

def exec (i : Instr) (s : State) : Host.Outcome State Fault Refusal :=
  match i with
  -- the input events (R90) and the two codes that are none (R91)
  | .rx b => Sys2Proof.Machine.execRx b s
  | .txack => Sys2Proof.Machine.execTxack s
  | .poll d => Sys2Proof.Machine.execPoll d s
  | .reset => Sys2Proof.Machine.execReset s
  | .view a => Sys2Proof.Machine.execView a s
  | .status => Sys2Proof.Machine.execStatus s
  | .reservedEvent6 => Sys2Proof.Machine.execReservedEvent6 s
  | .reservedEvent7 => Sys2Proof.Machine.execReservedEvent7 s
  -- the dispatcher's internal steps
  | .startReset d => Sys2Proof.Machine.execStartReset d s
  | .txByte => Sys2Proof.Machine.execTxByte s
  | .setSent => Sys2Proof.Machine.execSetSent s
  | .harvest d => Sys2Proof.Machine.execHarvest d s
  -- the pure functions
  | .encodeRequest req pl => Sys2Proof.Machine.execEncodeRequest req pl s
  | .verifyChecksum => Sys2Proof.Machine.execVerifyChecksum s
  | .decodeFixed => Sys2Proof.Machine.execDecodeFixed s
  | .decodeArray rs => Sys2Proof.Machine.execDecodeArray rs s
  | .decodeTlv => Sys2Proof.Machine.execDecodeTlv s
  | .decodeErrcode => Sys2Proof.Machine.execDecodeErrcode s
  -- the wire frames, words and bytes
  | .frameRequest req pl => Sys2Proof.Machine.execFrameRequest req pl s
  | .frameReply ty ck pl => Sys2Proof.Machine.execFrameReply ty ck pl s
  | .syncNock => Sys2Proof.Machine.execSyncNock s
  | .syncCk => Sys2Proof.Machine.execSyncCk s
  | .typeError => Sys2Proof.Machine.execTypeError s
  | .typeGetVersion => Sys2Proof.Machine.execTypeGetVersion s
  | .typeVersion => Sys2Proof.Machine.execTypeVersion s
  | .tagVector => Sys2Proof.Machine.execTagVector s
  | .tagIntersection => Sys2Proof.Machine.execTagIntersection s
  | .tagBarcode => Sys2Proof.Machine.execTagBarcode s
  -- the decoder kinds
  | .dkFixed => Sys2Proof.Machine.execDkFixed s
  | .dkArray rs => Sys2Proof.Machine.execDkArray rs s
  | .dkTlv => Sys2Proof.Machine.execDkTlv s
  | .reservedDk3 => Sys2Proof.Machine.execReservedDk3 s
  -- the result kinds
  | .ok d => Sys2Proof.Machine.execOk d s
  | .busy d => Sys2Proof.Machine.execBusy d s
  | .badChecksum d => Sys2Proof.Machine.execBadChecksum d s
  | .typeErrorResult d => Sys2Proof.Machine.execTypeErrorResult d s
  | .sensorError d => Sys2Proof.Machine.execSensorError d s
  | .faultResult d => Sys2Proof.Machine.execFaultResult d s
  | .timeout => Sys2Proof.Machine.execTimeout s
  | .reservedResult7 => Sys2Proof.Machine.execReservedResult7 s
  -- the status codes
  | .stIdle => Sys2Proof.Machine.execStIdle s
  | .stSent => Sys2Proof.Machine.execStSent s
  | .stReceivingHeader => Sys2Proof.Machine.execStReceivingHeader s
  | .stReceivingPayload => Sys2Proof.Machine.execStReceivingPayload s
  | .stComplete => Sys2Proof.Machine.execStComplete s

end Sys2Proof.Machine
end

