-- ==== Sys2Proof/Machine/Select.lean ====
section
/-! DEFINITION. Which step is taken next (20_memory.md R56, R57): the environment's interleaving is the list of offered words,
and an event that is not enabled is held until it is (42_dispatcher.md R154, R156; log entry 4). -/

namespace Sys2Proof.Machine

/-- What the machine does next. -/
inductive Selected where
  /-- this instruction runs, on this state -/
  | run (i : Instr) (t : State)
  /-- an offered event waits; only the environment's side changes -/
  | wait (t : State)
  /-- nothing is offered and nothing is enabled -/
  | idle
  /-- the offered word is no instruction -/
  | refuse (e : DecodeRefusal)

/-- An event that is not enabled now (D41): a poll while a start transmits (R156), `TXACK` with no byte on offer (R154). An
ill-formed descriptor does not wait: it is refused first (R218). Every other row is taken at once. -/
def waits (s : State) : Instr → Bool
  | .poll d => d.wf && !decide (s.dph = .ready)
  | .txack => (offered s.dph).isNone
  | _ => false

/-- The oldest held event that is enabled now, and the rest. -/
def takeReady (s : State) : List Instr → Option (Instr × List Instr)
  | [] => none
  | i :: is =>
    if waits s i then
      match takeReady s is with
      | some (j, js) => some (j, i :: js)
      | none => none
    else some (i, is)

/-- A held event that has become enabled goes first; then the next offered word; when nothing is offered, the dispatcher's
own enabled step SET_SENT (R155); else the block waits for events (R256). -/
def select (s : State) : Selected :=
  match takeReady s s.held with
  | some (i, rest) => .run i { s with held := rest }
  | none =>
    match s.input with
    | [] => if allSent s.dph then .run .setSent s else .idle
    | w :: ws =>
      match decodeWord w with
      | .error e => .refuse e
      | .ok i =>
        if waits s i then .wait { s with input := ws, held := s.held ++ [i] }
        else .run i { s with input := ws }

end Sys2Proof.Machine
end

