-- ==== Sys2Proof/Machine/Step.lean ====
section
/-! DEFINITION. One step of the machine: the selected instruction runs (20_memory.md R56). There is no program counter and no
instruction fetch (10_state.md R32, 20_memory.md R62): the next instruction is the next offered word. -/

namespace Sys2Proof.Machine

def step (s : State) : Host.Outcome State Fault Refusal :=
  match select s with
  | .run i t => exec i t
  | .wait t => .next t
  | .idle => .next s
  | .refuse e => .refused (.undecodable e)

/-- The state with a table word offered next. Held events that are enabled would go first, so they are taken away; those
that still wait stay held. -/
def State.withFetchWord (s : State) (nbits w : Nat) : State :=
  { s with input := tableBytes nbits w :: s.input, held := s.held.filter (waits s) }

end Sys2Proof.Machine
end

