-- ==== Sys2Proof/Safety.lean ====
section
/-! DEFINITION. What claims are stated in: the invariant of the block (10_state.md R28, with the ranges of R22 to R24 and the
reads of 70_reset_and_hazards.md R241), which rows are events (30_encoding.md R90), and what a good run is (R256). -/

namespace Sys2Proof.Machine

/-- A frame has been found: `dc` is derived from `hc` (R106, R24) and the two bytes at `hc` are the sync word that `ck`
names (R72, R105). -/
def FrameFound (s : State) : Prop :=
  s.dc = s.hc + headerSize s.ck ∧
    le16 (cell s s.hc) (cell s (s.hc + 1)) = if s.ck then s.cfg.syncCk else s.cfg.syncNock

/-- The header is captured: the frame is found and `plen` is its length byte, not 0 (R25, R108, R110). -/
def HeaderTaken (s : State) : Prop :=
  FrameFound s ∧ s.plen = lengthByte s ∧ s.plen ≠ 0

/-- The invariant of every reachable state: R28 as restated there, and what it rests on. -/
structure Inv (s : State) : Prop where
  /-- the instance's parameters are admitted (R12) -/
  cfg_wf : s.cfg.wf = true
  /-- the buffer keeps its canonical form: indices rising, all below `CAP` (R50) -/
  buf_wf : Memory.wf s.buf = true
  /-- `wc <= CAP` (R22, R28) -/
  wc_le : s.wc ≤ CAP
  /-- `hc <= 254` (R23) -/
  hc_le : s.hc ≤ 254
  /-- `dc <= 260` (R24) -/
  dc_le : s.dc ≤ 260
  /-- every index below `wc` was written since power-on (R66, R241) -/
  written : ∀ i, i < s.wc → (Memory.read s.buf i).isSome = true
  /-- during a start `st` stays `Idle` and the index stays inside the frame of 4 to 259 bytes (R30, R154, R155) -/
  starting : ∀ f i, s.dph = .tx f i → s.st = .idle ∧ i ≤ f.length ∧ 4 ≤ f.length ∧ f.length ≤ 259
  /-- "in `ReceivingHeader`, `hc + 2 <= wc < dc`" (R28) -/
  header : s.st = .receivingHeader → s.hc + 2 ≤ s.wc ∧ s.wc < s.dc ∧ FrameFound s
  /-- "in `ReceivingPayload`, `hc < dc <= wc < dc + plen` and `plen >= 1`" (R28) -/
  payload : s.st = .receivingPayload →
    s.hc < s.dc ∧ s.dc ≤ s.wc ∧ s.wc < frameEnd s ∧ HeaderTaken s
  /-- "in `Complete`, `hc < dc < dc + plen <= wc <= CAP`" (R28) -/
  complete : s.st = .complete →
    s.hc < s.dc ∧ s.dc < frameEnd s ∧ frameEnd s ≤ s.wc ∧ HeaderTaken s

/-- The rows that are input events of the block (R90). -/
def isEvent : Instr → Bool
  | .rx _ | .txack | .poll _ | .reset | .view _ | .status => true
  | _ => false

/-- The rows that deliver bytes to the receiver: `RX` itself and the wire rows that arrive (R100, log entry 6). -/
def isReceive : Instr → Bool
  | .rx _ | .frameReply _ _ _ | .syncNock | .syncCk => true
  | .typeError | .typeGetVersion | .typeVersion | .tagVector | .tagIntersection | .tagBarcode => true
  | _ => false

/-- The table's row of a result kind (R96). -/
def resultRow (k : ResultKind) (d : Descriptor) : Instr :=
  match k with
  | .ok => .ok d
  | .busy => .busy d
  | .badChecksum => .badChecksum d
  | .typeError => .typeErrorResult d
  | .sensorError => .sensorError d
  | .fault => .faultResult d

/-- The rows whose words the spec gives no meaning to: event codes 6 and 7 (R91), decoder-kind code 3 (R93), result codes 6
and 7 (R96). -/
def isReserved : Instr → Bool
  | .reservedEvent6 | .reservedEvent7 | .reservedDk3 | .timeout | .reservedResult7 => true
  | _ => false

/-- A TLV record as its tag and body (R80). -/
abbrev Rec := Byte × List Byte

/-- The bytes of a record: tag, one length byte, body (R80). -/
def recordBytes (r : Rec) : List Byte := r.1 :: BitVec.ofNat 8 r.2.length :: r.2

/-- The mask and views that a sequence of records starting at index `p` leaves, each record joining in turn (R183 to R186). -/
def recordsSeen (c : Cfg) : Nat → List Rec → TlvAcc → TlvAcc
  | _, [], acc => acc
  | p, r :: rs, acc =>
    recordsSeen c (p + 2 + r.2.length) rs (recordSeen c r.1 (p + 2) r.2.length acc)

/-- Bytes in which no record fits: fewer than a prefix, or a body cut short (R187). -/
def Truncated : List Byte → Prop
  | [] => True
  | [_] => True
  | _ :: len :: body => body.length < len.toNat

/-- `n` steps, stopping at the first fault or refusal. -/
def steps : Nat → State → Host.Outcome State Fault Refusal
  | 0, s => .next s
  | n + 1, s => andThen (step s) (steps n)

/-- "A run is *good* if no step refused and `fault = 0` at its end" (R256): `n` steps lead from `s` to `t`. -/
def GoodRun (n : Nat) (s t : State) : Prop :=
  steps n s = .next t ∧ t.fault = false

end Sys2Proof.Machine
end

