-- ==== Sys2Proof/Certificates/Slice0/Obligations.lean ====
section
/-! DEFINITION. The statements for the provers, from the numbered rules of spec/. Every statement is about all states, all
parameters (they stand in the state, `State.cfg`) and all operands, less what its hypotheses say. -/

open Sys2Proof Sys2Proof.Machine

/-! ### Encodings -/

/-- Decoding the word of a well-formed instruction gives the instruction back, whatever follows it (R91, R92, R93). -/
def Obligations.DecodeOfEncodeIsTheInstruction : Prop :=
  ∀ (i : Instr) (rest : List Byte), i.wf = true → decode (encode i ++ rest) = .ok (i, rest)

/-- The other direction: whatever the decoder accepts is well-formed, and is the word of what it answers. -/
def Obligations.EncodeOfDecodeIsTheWord : Prop :=
  ∀ (bs : List Byte) (i : Instr) (rest : List Byte),
    decode bs = .ok (i, rest) → i.wf = true ∧ encode i ++ rest = bs

/-- The event codes of R91 with their operands, the decoder-kind codes of R93, and what R92 and R93 refuse. The places of a
descriptor's fields are the model's (log entry 5). -/
def Obligations.EventCodesDecodeAsTheSpecNumbersThem : Prop :=
  (∀ b r, decode (0x00 :: b :: r) = .ok (.rx b, r)) ∧
  (∀ r, decode (0x01 :: r) = .ok (.txack, r)) ∧
  (∀ req exp r, decode (0x02 :: req :: exp :: 0x00 :: 0x00 :: 0x00 :: r)
    = .ok (.poll { req := req, pl := [], exp := exp, dk := .fixed }, r)) ∧
  (∀ req exp r, decode (0x02 :: req :: exp :: 0x01 :: 0x0E :: 0x00 :: 0x00 :: r)
    = .ok (.poll { req := req, pl := [], exp := exp, dk := .array 14 }, r)) ∧
  (∀ req exp r, decode (0x02 :: req :: exp :: 0x02 :: 0x00 :: 0x00 :: r)
    = .ok (.poll { req := req, pl := [], exp := exp, dk := .tlv }, r)) ∧
  (∀ r, decode (0x03 :: r) = .ok (.reset, r)) ∧
  (∀ a r, decode (0x04 :: a :: r) = .ok (.view a, r)) ∧
  (∀ r, decode (0x05 :: r) = .ok (.status, r)) ∧
  (∀ req exp r, decode (0x02 :: req :: exp :: 0x03 :: r) = .error .badDescriptor) ∧
  (∀ req exp r, decode (0x02 :: req :: exp :: 0x01 :: 0x00 :: r) = .error .badDescriptor) ∧
  (∀ req exp r, decode (0x02 :: req :: exp :: 0x00 :: 0x00 :: 0x01 :: r) = .error .badDescriptor)

/-! ### Refusals -/

/-- The five rows that the spec says are refused, reserved or unused have no meaning in any state (R91, R93, R96, R219). -/
def Obligations.ReservedCodesAreRefused : Prop :=
  ∀ s : State,
    exec .reservedEvent6 s = .refused (.notAnEvent 6) ∧
    exec .reservedEvent7 s = .refused (.notAnEvent 7) ∧
    exec .reservedDk3 s = .refused .reservedDecoderKind ∧
    exec .timeout s = .refused .neverProduced ∧
    exec .reservedResult7 s = .refused .unusedResultCode

/-- R92, R132, R182: what is outside the admitted set is refused, in every state and before any test (R166(g), R218). That a
poll is refused also while a start transmits, where R156 gives it no step, is log entry 12's reading (DEDUCED). That
ENCODE_REQUEST, FRAME_REQUEST, FRAME_REPLY (`badFrame`), DECODE_ARRAY and DK_ARRAY run, and so refuse, as rows of their own is
the model's choice (log entry 6). -/
def Obligations.WhatIsNotAdmittedIsRefusedFirst : Prop :=
  (∀ (d : Descriptor) (s : State), (255 < d.pl.length ∨ d.dk = .array 0) →
    exec (.poll d) s = .refused .badDescriptor ∧
    exec (.startReset d) s = .refused .badDescriptor ∧
    exec (.harvest d) s = .refused .badDescriptor) ∧
  (∀ (op : Byte) (pl : List Byte) (s : State), 255 < pl.length →
    exec (.encodeRequest op pl) s = .refused .badDescriptor ∧
    exec (.frameRequest op pl) s = .refused .badDescriptor ∧
    ∀ ck, exec (.frameReply op ck pl) s = .refused .badFrame) ∧
  (∀ s : State,
    exec (.decodeArray 0) s = .refused .badDescriptor ∧ exec (.dkArray 0) s = .refused .badDescriptor)

/-- No other row is ever refused: a well-formed instruction is refused exactly if it is one of the five. -/
def Obligations.OnlyReservedRowsAreRefused : Prop :=
  ∀ (i : Instr) (s : State), i.wf = true → ((∃ r, exec i s = .refused r) ↔ isReserved i = true)

/-! ### The receiver -/

/-- R101: while faulted a byte changes nothing, and only `RESET` clears the fault. -/
def Obligations.FaultedBlockDropsBytesUntilReset : Prop :=
  (∀ (b : Byte) (s : State), s.fault = true → exec (.rx b) s = .next s) ∧
  (∀ (i : Instr) (s t : State), s.fault = true → i ≠ .reset → exec i s = .next t → t.fault = true) ∧
  (∀ s : State, ∃ t, exec .reset s = .next t ∧ t.fault = false)

/-- R102: a byte at a full buffer sets the fault and changes nothing else, in any state. -/
def Obligations.ByteAtAFullBufferOverruns : Prop :=
  ∀ (b : Byte) (s : State), s.fault = false → s.wc = CAP → exec (.rx b) s = .next { s with fault := true }

/-- R103, R112: a byte that is not dropped is stored at `wc`, whatever the state, and `wc` moves by one; every other byte stays
(the frame in memory). The environment's and the dispatcher's side stays too. -/
def Obligations.StoredByteAndItsFrame : Prop :=
  ∀ (b : Byte) (s t : State), exec (.rx b) s = .next t →
    (s.fault = false ∧ s.wc < CAP → cell t s.wc = b ∧ t.wc = s.wc + 1 ∧ t.fault = false) ∧
    (s.fault = true ∨ CAP ≤ s.wc → t.buf = s.buf ∧ t.wc = s.wc ∧ t.st = s.st) ∧
    (∀ a, a ≠ s.wc → cell t a = cell s a) ∧
    t.dph = s.dph ∧ t.cfg = s.cfg ∧ t.draws = s.draws ∧ t.outs = s.outs ∧ t.evals = s.evals ∧
    t.input = s.input ∧ t.held = s.held

/-- R104: in `Idle` and `Complete` the byte is stored and the cursor advanced, nothing else; a complete frame is not
disturbed. -/
def Obligations.ByteInIdleOrComplete : Prop :=
  (∀ (b : Byte) (s : State), s.fault = false → s.wc < CAP → s.st = .idle ∨ s.st = .complete →
    exec (.rx b) s = .next { s with buf := Memory.write s.buf s.wc b, wc := s.wc + 1 }) ∧
  (∀ (b : Byte) (s t : State), Inv s → s.st = .complete → exec (.rx b) s = .next t →
    ∀ a, a < s.dc + s.plen.toNat → cell t a = cell s a)

/-- R105, R106: sync detection in `Sent`. -/
def Obligations.SyncDetectionInSent : Prop :=
  ∀ (b : Byte) (s : State), s.fault = false → s.wc < CAP → s.st = .sent →
    exec (.rx b) s = .next
      (if 1 ≤ s.wc ∧ le16 (cell s (s.wc - 1)) b = s.cfg.syncCk then
        { s with
          buf := Memory.write s.buf s.wc b, wc := s.wc + 1, st := .receivingHeader,
          hc := s.wc - 1, ck := true, dc := s.wc - 1 + 6 }
      else if 1 ≤ s.wc ∧ le16 (cell s (s.wc - 1)) b = s.cfg.syncNock then
        { s with
          buf := Memory.write s.buf s.wc b, wc := s.wc + 1, st := .receivingHeader,
          hc := s.wc - 1, ck := false, dc := s.wc - 1 + 4 }
      else { s with buf := Memory.write s.buf s.wc b, wc := s.wc + 1 })

/-- R108, R109, R110: the header's end, in every state of the invariant. The length byte is the byte at `hc + 3` after the
store; with `ck = 0` it is the byte just received. -/
def Obligations.HeaderEnd : Prop :=
  ∀ (b : Byte) (s : State), Inv s → s.fault = false → s.wc < CAP → s.st = .receivingHeader →
    exec (.rx b) s = .next
      (if s.wc + 1 ≥ s.dc then
        { s with
          buf := Memory.write s.buf s.wc b
          wc := s.wc + 1
          plen := if s.hc + 3 = s.wc then b else cell s (s.hc + 3)
          st := if (if s.hc + 3 = s.wc then b else cell s (s.hc + 3)) = 0 then .idle else .receivingPayload }
      else { s with buf := Memory.write s.buf s.wc b, wc := s.wc + 1 })

/-- R111: the payload's end. -/
def Obligations.PayloadEnd : Prop :=
  ∀ (b : Byte) (s : State), s.fault = false → s.wc < CAP → s.st = .receivingPayload →
    exec (.rx b) s = .next
      { s with
        buf := Memory.write s.buf s.wc b
        wc := s.wc + 1
        st := if s.wc + 1 ≥ s.dc + s.plen.toNat then .complete else .receivingPayload }

/-- R113: at most one transition per byte, so the `>=` tests of R108 and R111 first pass with equality. -/
def Obligations.ThresholdsFirstPassWithEquality : Prop :=
  ∀ (b : Byte) (s t : State), Inv s → s.fault = false → s.wc < CAP → exec (.rx b) s = .next t →
    (s.st = .sent → t.st = .receivingHeader → t.wc < t.dc) ∧
    (s.st = .receivingHeader → t.st ≠ .receivingHeader → s.wc + 1 = s.dc) ∧
    (s.st = .receivingHeader → t.st = .receivingPayload → t.wc < t.dc + t.plen.toNat) ∧
    (s.st = .receivingPayload → t.st = .complete → s.wc + 1 = s.dc + s.plen.toNat)

/-- R115: on the step entering `Complete` the cursor stands at the payload's end, inside the buffer; a frame that does not fit
never completes. R116(i): the largest payloads. -/
def Obligations.CompletionPoint : Prop :=
  (∀ (b : Byte) (s t : State), Inv s → exec (.rx b) s = .next t → s.st ≠ .complete → t.st = .complete →
    t.wc = t.dc + t.plen.toNat ∧ t.dc + t.plen.toNat ≤ CAP ∧
      t.plen.toNat ≤ (if t.ck then 250 else 252)) ∧
  (∀ (b : Byte) (s t : State), Inv s → s.st = .receivingPayload → CAP < s.dc + s.plen.toNat →
    exec (.rx b) s = .next t → t.st = .receivingPayload)

/-- R100 over a whole frame of R71, and R117's loopback for `ck = none` (a request frame is a reply frame without a checksum
field): from `Sent` with an empty buffer the frame reaches `Complete`, its bytes stand in the buffer from index 0 on, each
field where R72 says, and nothing else changes. The bounds on the payload are R116(i)'s. That the row runs as the delivery of
its bytes is the model's choice (log entry 6). -/
def Obligations.ReplyFrameReachesComplete : Prop :=
  ∀ (s : State) (ty : Byte) (ck : Option Half) (pl : List Byte),
    s.cfg.wf = true → s.fault = false → s.st = .sent → s.wc = 0 →
    1 ≤ pl.length → pl.length ≤ (if ck.isSome then 250 else 252) →
    ∃ t, exec (.frameReply ty ck pl) s = .next t ∧
      t = { s with
        buf := t.buf
        st := .complete
        hc := 0
        ck := ck.isSome
        dc := if ck.isSome then 6 else 4
        plen := BitVec.ofNat 8 pl.length
        wc := (if ck.isSome then 6 else 4) + pl.length } ∧
      le16 (cell t 0) (cell t 1) = (if ck.isSome then s.cfg.syncCk else s.cfg.syncNock) ∧
      cell t 2 = ty ∧ (cell t 3).toNat = pl.length ∧
      (∀ c, ck = some c → le16 (cell t 4) (cell t 5) = c) ∧
      bytesAt t t.dc pl.length = pl ∧
      (∀ a, t.wc ≤ a → cell t a = cell s a)

/-- R109, R116(h): a reply with length byte 0 ends at its header, in `Idle`, with no result; its checksum field is received
and never checked. The row runs as the delivery of its bytes (log entry 6). -/
def Obligations.ZeroLengthReplyEndsInIdle : Prop :=
  ∀ (s : State) (ty : Byte) (ck : Option Half),
    s.cfg.wf = true → s.fault = false → s.st = .sent → s.wc = 0 →
    ∃ t, exec (.frameReply ty ck []) s = .next t ∧
      t = { s with
        buf := t.buf
        st := .idle
        hc := 0
        ck := ck.isSome
        dc := if ck.isSome then 6 else 4
        plen := 0
        wc := if ck.isSome then 6 else 4 } ∧
      (∀ a, t.wc ≤ a → cell t a = cell s a)

/-- R73, R105: a sync word on the wire, low byte first, is detected where its low byte does not already complete one. The row
runs as the delivery of its two bytes (log entry 6). -/
def Obligations.SyncWordOnTheWireIsDetected : Prop :=
  ∀ s : State, s.cfg.wf = true → s.fault = false → s.wc + 1 < CAP → s.st = .sent →
    ((s.wc = 0 ∨ isSync s.cfg (le16 (cell s (s.wc - 1)) (loByte s.cfg.syncCk)) = false) →
      exec .syncCk s = .next { s with
        buf := Memory.write (Memory.write s.buf s.wc (loByte s.cfg.syncCk)) (s.wc + 1) (hiByte s.cfg.syncCk)
        wc := s.wc + 2, hc := s.wc, ck := true, dc := s.wc + 6, st := .receivingHeader }) ∧
    ((s.wc = 0 ∨ isSync s.cfg (le16 (cell s (s.wc - 1)) (loByte s.cfg.syncNock)) = false) →
      exec .syncNock s = .next { s with
        buf := Memory.write (Memory.write s.buf s.wc (loByte s.cfg.syncNock)) (s.wc + 1) (hiByte s.cfg.syncNock)
        wc := s.wc + 2, hc := s.wc, ck := false, dc := s.wc + 4, st := .receivingHeader })

/-- R88, R100: each one-byte wire value is delivered as that byte, in every state; in a state of the invariant with room it is
stored and the cursor moves. That a wire row of the table runs as its delivery is the model's choice (log entry 6). -/
def Obligations.WireBytesAreDelivered : Prop :=
  (∀ s : State,
    exec .typeError s = exec (.rx s.cfg.typeError) s ∧
    exec .typeGetVersion s = exec (.rx 14) s ∧
    exec .typeVersion s = exec (.rx 15) s ∧
    exec .tagVector s = exec (.rx s.cfg.tagVector) s ∧
    exec .tagIntersection s = exec (.rx s.cfg.tagIntersection) s ∧
    exec .tagBarcode s = exec (.rx s.cfg.tagBarcode) s) ∧
  (∀ s : State, Inv s → s.fault = false → s.wc < CAP →
    (∃ t, exec .typeError s = .next t ∧ cell t s.wc = s.cfg.typeError ∧ t.wc = s.wc + 1) ∧
    (∃ t, exec .typeGetVersion s = .next t ∧ cell t s.wc = 14 ∧ t.wc = s.wc + 1) ∧
    (∃ t, exec .typeVersion s = .next t ∧ cell t s.wc = 15 ∧ t.wc = s.wc + 1) ∧
    (∃ t, exec .tagVector s = .next t ∧ cell t s.wc = s.cfg.tagVector ∧ t.wc = s.wc + 1) ∧
    (∃ t, exec .tagIntersection s = .next t ∧ cell t s.wc = s.cfg.tagIntersection ∧ t.wc = s.wc + 1) ∧
    (∃ t, exec .tagBarcode s = .next t ∧ cell t s.wc = s.cfg.tagBarcode ∧ t.wc = s.wc + 1))

/-! ### The codec -/

/-- R130, R131: the request frame, with `SYNC_NOCK` low byte first and no checksum; a payload over 255 bytes is refused (R132).
That the function's value is recorded in `evals` is the model's choice (log entry 6). -/
def Obligations.RequestFrameBytes : Prop :=
  ∀ (req : Byte) (pl : List Byte) (s : State),
    (pl.length ≤ 255 → exec (.encodeRequest req pl) s = .next { s with
      evals := s.evals ++ [.frame
        (BitVec.ofNat 8 s.cfg.syncNock.toNat :: BitVec.ofNat 8 (s.cfg.syncNock.toNat / 256) :: req
          :: BitVec.ofNat 8 pl.length :: pl)] }) ∧
    (255 < pl.length → exec (.encodeRequest req pl) s = .refused .badDescriptor)

/-- R133, R134: the payload bytes, as many as the length byte says, each unsigned, summed modulo 2^16 and compared with the
little-endian field at `hc + 4`. The hypotheses say that the bytes exist (R50). The value is recorded in `evals` (log entry 6). -/
def Obligations.ChecksumIsTheSumModulo65536 : Prop :=
  ∀ s : State, s.hc + 6 ≤ CAP → s.dc + (cell s (s.hc + 3)).toNat ≤ CAP →
    exec .verifyChecksum s = .next { s with
      evals := s.evals ++ [.check (decide
        (((List.range (cell s (s.hc + 3)).toNat).map fun k => (cell s (s.dc + k)).toNat).sum % 2 ^ 16
          = (cell s (s.hc + 4)).toNat + 256 * (cell s (s.hc + 5)).toNat))] }

/-- R137: flipping one bit of one payload byte changes the sum. -/
def Obligations.SingleBitFlipChangesTheSum : Prop :=
  ∀ (pl : List Byte) (j k : Nat), j < pl.length → k < 8 →
    checksum (pl.modify j (fun b => b ^^^ BitVec.twoPow 8 k)) ≠ checksum pl

/-- R136(c): in a completed checksum frame the modulo never acts. -/
def Obligations.ChecksumNeverWrapsInAHarvest : Prop :=
  ∀ s : State, Inv s → s.st = .complete → s.ck = true →
    (checksum (bytesAt s s.dc s.plen.toNat)).toNat
      = ((bytesAt s s.dc s.plen.toNat).map BitVec.toNat).sum

/-! ### The dispatcher -/

/-- R163: while faulted every poll returns `FAULT` and writes nothing, whatever `st` is. -/
def Obligations.PollWhileFaulted : Prop :=
  ∀ (d : Descriptor) (s : State), d.wf = true → s.dph = .ready → s.fault = true →
    exec (.poll d) s = .next { s with outs := s.outs ++ [.result .fault] }

/-- R157: a poll of a transaction under way returns `BUSY` and writes nothing; a second poll returns `BUSY` again. -/
def Obligations.PollUnderWayIsBusy : Prop :=
  ∀ (d : Descriptor) (s : State), d.wf = true → s.dph = .ready → s.fault = false →
    s.st = .sent ∨ s.st = .receivingHeader ∨ s.st = .receivingPayload →
    exec (.poll d) s = .next { s with outs := s.outs ++ [.result .busy] } ∧
    ∀ d' t, d'.wf = true → exec (.poll d) s = .next t →
      exec (.poll d') t = .next { s with outs := s.outs ++ [.result .busy] ++ [.result .busy] }

/-- R153: a start writes `wc` and `dph` and nothing else; it is what a poll in `Idle` does (R152). -/
def Obligations.StartResetsTheWriteCursorAndLatchesTheFrame : Prop :=
  ∀ (d : Descriptor) (s : State), d.wf = true → s.dph = .ready → s.fault = false → s.st = .idle →
    exec (.startReset d) s = .next { s with
      wc := 0
      dph := .tx (BitVec.ofNat 8 s.cfg.syncNock.toNat :: BitVec.ofNat 8 (s.cfg.syncNock.toNat / 256) :: d.req
        :: BitVec.ofNat 8 d.pl.length :: d.pl) 0 } ∧
    exec (.poll d) s = exec (.startReset d) s

/-- R154: the byte on offer is emitted and the next one offered; without one there is no step. -/
def Obligations.TxackEmitsTheByteOnOffer : Prop :=
  (∀ (f : List Byte) (i : Nat) (b : Byte) (s : State), s.dph = .tx f i → f[i]? = some b →
    exec .txack s = .next { s with dph := .tx f (i + 1), outs := s.outs ++ [.tx b] } ∧
    exec .txByte s = .next { s with dph := .tx f (i + 1), outs := s.outs ++ [.tx b] }) ∧
  (∀ s : State, (s.dph = .ready ∨ ∃ f, s.dph = .tx f f.length) →
    exec .txack s = .next s ∧ exec .txByte s = .next s)

/-- R155: the start completes with `BUSY`, or `FAULT` if an overrun was recorded meanwhile; before the last byte is accepted
there is no step. -/
def Obligations.SetSentCompletesTheStart : Prop :=
  (∀ (f : List Byte) (s : State), s.dph = .tx f f.length →
    exec .setSent s = .next { s with
      st := .sent, dph := .ready, outs := s.outs ++ [.result (if s.fault then .fault else .busy)] }) ∧
  (∀ (f : List Byte) (i : Nat) (s : State), (s.dph = .ready ∨ (s.dph = .tx f i ∧ i < f.length)) →
    exec .setSent s = .next s)

/-- R156: while a start transmits a poll has no step; an offered one is held, and runs as soon as the dispatcher is ready
again. That it then runs before what is offered later is the model's choice (log entry 4). -/
def Obligations.PollIsHeldWhileAStartTransmits : Prop :=
  (∀ (d : Descriptor) (f : List Byte) (i : Nat) (s : State), d.wf = true → s.dph = .tx f i →
    exec (.poll d) s = .next s) ∧
  (∀ (d : Descriptor) (f : List Byte) (i : Nat) (w rest : List Byte) (ws : List (List Byte)) (s : State),
    s.dph = .tx f i → takeReady s s.held = none → s.input = w :: ws → decode w = .ok (.poll d, rest) →
    step s = .next { s with input := ws, held := s.held ++ [.poll d] }) ∧
  (∀ (d : Descriptor) (js : List Instr) (s : State), s.dph = .ready → s.held = .poll d :: js →
    step s = exec (.poll d) { s with held := js })

/-- R152, R70: a request frame on the wire is a whole start with no other step between: the frame goes out byte for byte, the
poll returns `BUSY`, and the block is in `Sent` with an empty buffer. That the row runs as the whole start is the model's choice
(log entry 6). -/
def Obligations.RequestFrameGoesOutWhole : Prop :=
  ∀ (req : Byte) (pl : List Byte) (s : State),
    pl.length ≤ 255 → s.dph = .ready → s.fault = false → s.st = .idle →
    exec (.frameRequest req pl) s = .next { s with
      wc := 0
      st := .sent
      outs := s.outs ++ (requestFrame s.cfg req pl).map .tx ++ [.result .busy] }

/-- R159: a bad checksum. The type byte is not examined and nothing is decoded. -/
def Obligations.HarvestOfABadChecksum : Prop :=
  ∀ (d : Descriptor) (s t : State), Inv s → d.wf = true → s.dph = .ready → s.fault = false → s.st = .complete →
    s.ck = true → checksumMatches s = false →
    t = { s with st := .idle, outs := s.outs ++ [.result .badChecksum] } →
    exec (.poll d) s = .next t ∧ exec (.harvest d) s = .next t

/-- R160: the expected type. R166(a): also when the expected type is the error type. -/
def Obligations.HarvestOfTheExpectedType : Prop :=
  ∀ (d : Descriptor) (s t : State), Inv s → d.wf = true → s.dph = .ready → s.fault = false → s.st = .complete →
    (s.ck = false ∨ checksumMatches s = true) → cell s (s.hc + 2) = d.exp →
    t = { s with st := .idle, outs := s.outs ++ [.result (.ok (decodePayload d.dk s))] } →
    exec (.poll d) s = .next t ∧ exec (.harvest d) s = .next t

/-- R161: the error type; the code is the four bytes at `dc`, raw. The draw counter is the model's (log entry 3). -/
def Obligations.HarvestOfASensorError : Prop :=
  ∀ (d : Descriptor) (s t : State), Inv s → d.wf = true → s.dph = .ready → s.fault = false → s.st = .complete →
    (s.ck = false ∨ checksumMatches s = true) →
    cell s (s.hc + 2) ≠ d.exp → cell s (s.hc + 2) = s.cfg.typeError →
    t = { s with
      st := .idle, draws := s.draws + 4, outs := s.outs ++ [.result (.sensorError (errorCode s))] } →
    exec (.poll d) s = .next t ∧ exec (.harvest d) s = .next t

/-- R162: any other type. -/
def Obligations.HarvestOfAnUnexpectedType : Prop :=
  ∀ (d : Descriptor) (s t : State), Inv s → d.wf = true → s.dph = .ready → s.fault = false → s.st = .complete →
    (s.ck = false ∨ checksumMatches s = true) →
    cell s (s.hc + 2) ≠ d.exp → cell s (s.hc + 2) ≠ s.cfg.typeError →
    t = { s with st := .idle, outs := s.outs ++ [.result .typeError] } →
    exec (.poll d) s = .next t ∧ exec (.harvest d) s = .next t

/-- The rows of the result kinds and of the status codes, as the steps that answer them. That such a row runs as this step is
the model's choice (log entry 6); what the step does is R151 to R163 and R193. -/
def Obligations.ResultAndStatusRowsRunTheirStep : Prop :=
  (∀ (d : Descriptor) (s : State), Inv s → d.wf = true → s.dph = .ready → s.fault = false → s.st = .complete →
    (s.ck = true → checksumMatches s = false →
      exec (.badChecksum d) s = .next { s with st := .idle, outs := s.outs ++ [.result .badChecksum] }) ∧
    ((s.ck = false ∨ checksumMatches s = true) →
      (cell s (s.hc + 2) = d.exp →
        exec (.ok d) s = .next { s with st := .idle, outs := s.outs ++ [.result (.ok (decodePayload d.dk s))] }) ∧
      (cell s (s.hc + 2) ≠ d.exp → cell s (s.hc + 2) = s.cfg.typeError →
        exec (.sensorError d) s = .next { s with
          st := .idle, draws := s.draws + 4, outs := s.outs ++ [.result (.sensorError (errorCode s))] }) ∧
      (cell s (s.hc + 2) ≠ d.exp → cell s (s.hc + 2) ≠ s.cfg.typeError →
        exec (.typeErrorResult d) s = .next { s with st := .idle, outs := s.outs ++ [.result .typeError] }))) ∧
  (∀ (d : Descriptor) (s : State), d.wf = true → s.dph = .ready → s.fault = true →
    exec (.faultResult d) s = .next { s with outs := s.outs ++ [.result .fault] }) ∧
  (∀ (d : Descriptor) (s : State), d.wf = true → s.dph = .ready → s.fault = false →
    s.st = .sent ∨ s.st = .receivingHeader ∨ s.st = .receivingPayload →
    exec (.busy d) s = .next { s with outs := s.outs ++ [.result .busy] }) ∧
  (∀ (d : Descriptor) (f : List Byte) (s : State), d.wf = true → s.dph = .tx f f.length →
    (s.fault = false → exec (.busy d) s = .next { s with
      st := .sent, dph := .ready, outs := s.outs ++ [.result .busy] }) ∧
    (s.fault = true → exec (.faultResult d) s = .next { s with
      st := .sent, dph := .ready, outs := s.outs ++ [.result .fault] })) ∧
  (∀ s : State,
    (s.st = .idle → exec .stIdle s = .next { s with outs := s.outs ++ [.status 0 s.fault] }) ∧
    (s.st = .sent → exec .stSent s = .next { s with outs := s.outs ++ [.status 1 s.fault] }) ∧
    (s.st = .receivingHeader →
      exec .stReceivingHeader s = .next { s with outs := s.outs ++ [.status 2 s.fault] }) ∧
    (s.st = .receivingPayload →
      exec .stReceivingPayload s = .next { s with outs := s.outs ++ [.status 3 s.fault] }) ∧
    (s.st = .complete → exec .stComplete s = .next { s with outs := s.outs ++ [.status 4 s.fault] }))

/-- R165: what a poll answers in `Complete` depends on the frame's own bytes only, in two states that agree on those, on the
header registers and on the parameters. A short error payload is left out, as R165 leaves it out. -/
def Obligations.HarvestDependsOnTheFrameOnly : Prop :=
  ∀ (d : Descriptor) (s u s' u' : State), Inv s → Inv u →
    s.dph = .ready → u.dph = .ready → s.fault = false → u.fault = false →
    s.st = .complete → u.st = .complete →
    s.cfg = u.cfg → s.hc = u.hc → s.dc = u.dc → s.plen = u.plen → s.ck = u.ck →
    (∀ a, s.hc ≤ a → a < s.dc + s.plen.toNat → cell s a = cell u a) →
    4 ≤ s.plen.toNat ∨ cell s (s.hc + 2) ≠ s.cfg.typeError →
    exec (.poll d) s = .next s' → exec (.poll d) u = .next u' →
    ∃ r, s'.outs = s.outs ++ [.result r] ∧ u'.outs = u.outs ++ [.result r]

/-- R250, R219: in `Sent`, `ReceivingHeader` and `ReceivingPayload` only received bytes and `RESET` change the state. -/
def Obligations.OnlyBytesOrResetMoveATransactionUnderWay : Prop :=
  ∀ (i : Instr) (s t : State), Inv s →
    s.st = .sent ∨ s.st = .receivingHeader ∨ s.st = .receivingPayload →
    isReceive i = false → i ≠ .reset → exec i s = .next t → t.st = s.st

/-! ### The decoders -/

/-- R181, R180: the fixed decoder, by its own row and by its kind's; nothing else changes. The value is recorded in `evals`, and
a kind's row runs the decoder it selects: the model's choices (log entry 6). -/
def Obligations.FixedDecoderOverlaysThePayload : Prop :=
  ∀ s : State,
    exec .decodeFixed s = .next { s with
      evals := s.evals ++ [.decoded (.fixed { kind := .fixed, offset := s.dc, count := 1, len := s.plen.toNat })] } ∧
    exec .dkFixed s = exec .decodeFixed s

/-- R182, R180: the array decoder, by its own row and by its kind's; nothing else changes (log entry 6 as above). -/
def Obligations.ArrayDecoderCountsWholeRecords : Prop :=
  ∀ (rs : Byte) (s : State), rs ≠ 0 →
    exec (.decodeArray rs) s = .next { s with
      evals := s.evals ++ [.decoded (.array
        { kind := .array, offset := s.dc, count := s.plen.toNat / rs.toNat,
          len := s.plen.toNat / rs.toNat * rs.toNat })] } ∧
    exec (.dkArray rs) s = exec (.decodeArray rs) s

/-- R183 to R186, R188: what one record of body length `len` whose body starts at `offset` adds: a recognized tag sets its
kind's mask bit and gives that kind's view, which replaces an earlier one; any other tag adds nothing. -/
def Obligations.RecordJoinsTheMaskAndTheViews : Prop :=
  ∀ (c : Cfg) (tag : Byte) (offset len : Nat) (acc : TlvAcc), c.wf = true →
    (tag = c.tagVector → recordSeen c tag offset len acc = { acc with
      mask := acc.mask ||| 0b001
      vec := some { kind := .vector, offset := offset, count := len / c.elemVector, len := len } }) ∧
    (tag = c.tagIntersection → recordSeen c tag offset len acc = { acc with
      mask := acc.mask ||| 0b010
      inter := some { kind := .intersection, offset := offset, count := len / c.elemIntersection, len := len } }) ∧
    (tag = c.tagBarcode → recordSeen c tag offset len acc = { acc with
      mask := acc.mask ||| 0b100
      bar := some { kind := .barcode, offset := offset, count := len / c.elemBarcode, len := len } }) ∧
    (tag ≠ c.tagVector → tag ≠ c.tagIntersection → tag ≠ c.tagBarcode →
      recordSeen c tag offset len acc = acc)

/-- R183 to R188: on a payload that is a sequence of records and then bytes in which no record fits, the walker has seen
exactly those records, each in turn; by its own row and by its kind's (log entry 6 as above). -/
def Obligations.WalkerSeesExactlyTheRecords : Prop :=
  ∀ (s : State) (rs : List Rec) (tail : List Byte),
    s.dc + s.plen.toNat ≤ CAP → (∀ r ∈ rs, r.2.length ≤ 255) → Truncated tail →
    bytesAt s s.dc s.plen.toNat = rs.flatMap recordBytes ++ tail →
    exec .decodeTlv s = .next { s with
      evals := s.evals ++ [.decoded (tlvOut (recordsSeen s.cfg s.dc rs {}))] } ∧
    exec .dkTlv s = exec .decodeTlv s

/-- R187, R82, R185, R186: no view reaches past the payload, each count is the length by the kind's element size, and a mask bit
is set exactly if its kind has a view. -/
def Obligations.WalkerViewsLieInThePayload : Prop :=
  ∀ (s : State) (m : BitVec 3) (vec inter bar : Option View), decodeTlv s = .tlv m vec inter bar →
    (∀ v, vec = some v → v.kind = .vector ∧ s.dc + 2 ≤ v.offset ∧ v.offset + v.len ≤ s.dc + s.plen.toNat ∧
      v.count = v.len / s.cfg.elemVector) ∧
    (∀ v, inter = some v → v.kind = .intersection ∧ s.dc + 2 ≤ v.offset ∧
      v.offset + v.len ≤ s.dc + s.plen.toNat ∧ v.count = v.len / s.cfg.elemIntersection) ∧
    (∀ v, bar = some v → v.kind = .barcode ∧ s.dc + 2 ≤ v.offset ∧ v.offset + v.len ≤ s.dc + s.plen.toNat ∧
      v.count = v.len / s.cfg.elemBarcode) ∧
    m.getLsbD 0 = vec.isSome ∧ m.getLsbD 1 = inter.isSome ∧ m.getLsbD 2 = bar.isSome

/-- R189: the walk has ended after `plen div 2 + 1` passes; more change nothing. -/
def Obligations.WalkEndsWithinItsPasses : Prop :=
  ∀ (s : State) (acc : TlvAcc) (n : Nat),
    walk s (s.dc + s.plen.toNat) (s.plen.toNat / 2 + 1 + n) s.dc acc
      = walk s (s.dc + s.plen.toNat) (s.plen.toNat / 2 + 1) s.dc acc

/-- R190, R191: the error code is the little-endian value of four bytes; one at an index past the buffer is a draw, and a
claim about it holds for every value of the draw. The draw counter is the model's (log entry 3), `evals` too (log entry 6). -/
def Obligations.ErrorCodeIsFourRawBytes : Prop :=
  ∀ s : State, ∃ c : Word32,
    exec .decodeErrcode s = .next { s with evals := s.evals ++ [.code c], draws := s.draws + 4 } ∧
    ∀ k, k < 4 → c.extractLsb' (8 * k) 8 =
      if s.dc + k < CAP then cell s (s.dc + k) else Config.drawnByte (s.draws + k)

/-! ### The ports, reset and power-on -/

/-- R192: any byte, in any state; nothing changes but the observation. -/
def Obligations.ViewReadsTheByteAsItStands : Prop :=
  ∀ (a : Byte) (s : State), exec (.view a) s = .next { s with outs := s.outs ++ [.viewByte (cell s a.toNat)] }

/-- R193, R98, R21: the status port shows `st` in its 3-bit code and the fault flag, and writes nothing. -/
def Obligations.StatusShowsTheStateAndTheFault : Prop :=
  ∀ s : State,
    exec .status s = .next { s with
      outs := s.outs ++ [.status
        (match s.st with
          | .idle => 0
          | .sent => 1
          | .receivingHeader => 2
          | .receivingPayload => 3
          | .complete => 4) s.fault] }

/-- R240: every register at its reset value, the buffer unchanged, in any state and any dispatcher phase. -/
def Obligations.ResetClearsEveryRegisterButTheBuffer : Prop :=
  ∀ s : State, exec .reset s = .next { s with
    st := .idle, wc := 0, hc := 0, dc := 0, plen := 0, ck := false, fault := false, dph := .ready }

/-- R241, R35: power-on is the state `RESET` gives, but every byte holds its own draw; a claim about it holds for every draw. -/
def Obligations.PowerOnState : Prop :=
  ∀ c : Cfg,
    exec .reset (State.powerOn c) = .next (State.powerOn c) ∧
    (State.powerOn c).st = .idle ∧ (State.powerOn c).wc = 0 ∧ (State.powerOn c).hc = 0 ∧
    (State.powerOn c).dc = 0 ∧ (State.powerOn c).plen = 0 ∧ (State.powerOn c).ck = false ∧
    (State.powerOn c).fault = false ∧ (State.powerOn c).dph = .ready ∧
    ∀ a, cell (State.powerOn c) a = Config.powerOnByte a

/-- R96: the code of every result kind and of every result record, as the spec numbers them, and no kind has code 6 (TIMEOUT) or
7. The last two clauses tie the codes to the words of the result rows, which are the model's (log entry 6): bits 2..0 of a
row's first byte are the row's code, bits 7..3 are 6. -/
def Obligations.ResultCodesAreTheSpecsNumbers : Prop :=
  (resultCode .ok = 0 ∧ resultCode .busy = 1 ∧ resultCode .badChecksum = 2 ∧ resultCode .typeError = 3 ∧
    resultCode .sensorError = 4 ∧ resultCode .fault = 5) ∧
  ((∀ out, resultCode (resultKind (.ok out)) = 0) ∧ resultCode (resultKind .busy) = 1 ∧
    resultCode (resultKind .badChecksum) = 2 ∧ resultCode (resultKind .typeError) = 3 ∧
    (∀ code, resultCode (resultKind (.sensorError code)) = 4) ∧ resultCode (resultKind .fault) = 5) ∧
  (∀ k : ResultKind, resultCode k ≠ 6 ∧ resultCode k ≠ 7) ∧
  (∀ (d : Descriptor) (k : ResultKind),
    (encode (resultRow k d)).head?.map (·.extractLsb' 0 3) = some (resultCode k) ∧
    (encode (resultRow k d)).head?.map (·.extractLsb' 3 5) = some 6) ∧
  (encode .timeout = [0x36] ∧ encode .reservedResult7 = [0x37])

/-! ### Invariants and whole-machine rules -/

/-- The invariant holds after power-on of every admitted instance, and at the machine's reset (its parameters are profile P,
log entry 1). -/
def Obligations.InvariantHoldsAtReset : Prop :=
  (∀ c : Cfg, c.wf = true → Inv (State.powerOn c)) ∧ Inv State.reset

/-- R28 and what it rests on: every step from a state of the invariant, whatever is offered, leaves a state of it. -/
def Obligations.EveryStepKeepsTheInvariant : Prop :=
  ∀ s t : State, Inv s → step s = .next t → Inv t

/-- A good run of any length from a state of the invariant ends in one. -/
def Obligations.GoodRunsStayInTheInvariant : Prop :=
  ∀ (n : Nat) (s t : State), Inv s → GoodRun n s t → Inv t

/-- R50, R55: from a state of the invariant no instruction stops on a read at an index past the buffer, and none writes one: what
it leaves keeps the canonical form, and no index from 256 on holds a written byte. The three rows that run a reading
function on its own, outside a harvest, may stop so (log entry 8) and are left out of the first clause: the block runs those
functions only in a harvest. -/
def Obligations.NoInstructionReadsOrWritesPastTheBuffer : Prop :=
  (∀ (i : Instr) (s : State) (r : Fault), Inv s →
    i ≠ .verifyChecksum → i ≠ .decodeTlv → i ≠ .dkTlv → exec i s ≠ .fault r) ∧
  (∀ (i : Instr) (s t : State), Inv s → exec i s = .next t →
    Memory.wf t.buf = true ∧ t.wc ≤ CAP ∧ ∀ a, CAP ≤ a → Memory.read t.buf a = none)

/-- R51: only received bytes write the buffer, and only between the old and the new write cursor. -/
def Obligations.OnlyReceivedBytesWriteTheBuffer : Prop :=
  ∀ (i : Instr) (s t : State), exec i s = .next t →
    (isReceive i = false → t.buf = s.buf) ∧
    (∀ a, a < s.wc ∨ t.wc ≤ a → cell t a = cell s a)

/-- R23, R24, R25, R26: the header registers are written only by the receiver and by `RESET`. -/
def Obligations.OnlyTheReceiverAndResetWriteHeaderRegisters : Prop :=
  ∀ (i : Instr) (s t : State), isReceive i = false → i ≠ .reset → exec i s = .next t →
    t.hc = s.hc ∧ t.dc = s.dc ∧ t.plen = s.plen ∧ t.ck = s.ck

/-- R22, R114, R243: the write cursor never moves backward but to 0, at a transaction start or at `RESET`. -/
def Obligations.WriteCursorGoesBackOnlyToZero : Prop :=
  ∀ (i : Instr) (s t : State), exec i s = .next t → t.wc < s.wc →
    t.wc = 0 ∧ (i = .reset ∨ (∃ d, i = .poll d) ∨ (∃ d, i = .startReset d) ∨ ∃ req pl, i = .frameRequest req pl)

/-- R33: no step writes the parameters. -/
def Obligations.ParametersNeverChange : Prop :=
  ∀ s t : State, step s = .next t → t.cfg = s.cfg

/-- R256: what was seen at the ports stays seen; a step only adds to it. -/
def Obligations.ObservationsOnlyGrow : Prop :=
  ∀ s t : State, step s = .next t → s.outs <+: t.outs

/-! ### The step -/

/-- The next offered word that decodes to an instruction is run, on the state without it; an event that is not enabled is held
and nothing else changes; a held event that is enabled goes first; a word that is no instruction is refused; with nothing
offered the dispatcher's own enabled step is taken, and without one nothing happens. The order is log entry 4's. -/
def Obligations.StepRunsTheDecodedInstruction : Prop :=
  (∀ (s : State) (w rest : List Byte) (ws : List (List Byte)) (i : Instr),
    takeReady s s.held = none → s.input = w :: ws → decode w = .ok (i, rest) →
    (waits s i = false → step s = exec i { s with input := ws }) ∧
    (waits s i = true → step s = .next { s with input := ws, held := s.held ++ [i] })) ∧
  (∀ (s : State) (i : Instr) (is : List Instr), takeReady s s.held = some (i, is) →
    step s = exec i { s with held := is }) ∧
  (∀ (s : State) (w : List Byte) (ws : List (List Byte)) (e : DecodeRefusal),
    takeReady s s.held = none → s.input = w :: ws → decode w = .error e → step s = .refused (.undecodable e)) ∧
  (∀ s : State, takeReady s s.held = none → s.input = [] →
    (allSent s.dph = true → step s = exec .setSent s) ∧ (allSent s.dph = false → step s = .next s))

/-- A table word placed with `withFetchWord` is the next instruction to run, whatever was held. -/
def Obligations.PlacedWordRunsNext : Prop :=
  ∀ (s : State) (nbits w : Nat) (i : Instr), decodeTableWord nbits w = some i → waits s i = false →
    step (s.withFetchWord nbits w) = exec i { s with held := s.held.filter (waits s) }
end

