-- ==== Sys2Proof/Laws/State.lean ====
section
/-! SUPPORT. One lemma per field per update: what each named operation does to each field of the state. -/

namespace Sys2Proof.Machine

@[simp] theorem store_st (b : Byte) (s : State) : (store b s).st = s.st := rfl
@[simp] theorem store_wc (b : Byte) (s : State) : (store b s).wc = s.wc := rfl
@[simp] theorem store_hc (b : Byte) (s : State) : (store b s).hc = s.hc := rfl
@[simp] theorem store_dc (b : Byte) (s : State) : (store b s).dc = s.dc := rfl
@[simp] theorem store_plen (b : Byte) (s : State) : (store b s).plen = s.plen := rfl
@[simp] theorem store_ck (b : Byte) (s : State) : (store b s).ck = s.ck := rfl
@[simp] theorem store_fault (b : Byte) (s : State) : (store b s).fault = s.fault := rfl
@[simp] theorem store_buf (b : Byte) (s : State) : (store b s).buf = Memory.write s.buf s.wc b := rfl
@[simp] theorem store_dph (b : Byte) (s : State) : (store b s).dph = s.dph := rfl
@[simp] theorem store_cfg (b : Byte) (s : State) : (store b s).cfg = s.cfg := rfl
@[simp] theorem store_draws (b : Byte) (s : State) : (store b s).draws = s.draws := rfl
@[simp] theorem store_outs (b : Byte) (s : State) : (store b s).outs = s.outs := rfl
@[simp] theorem store_evals (b : Byte) (s : State) : (store b s).evals = s.evals := rfl
@[simp] theorem store_input (b : Byte) (s : State) : (store b s).input = s.input := rfl
@[simp] theorem store_held (b : Byte) (s : State) : (store b s).held = s.held := rfl

@[simp] theorem advance_st (s : State) : (advance s).st = s.st := rfl
@[simp] theorem advance_wc (s : State) : (advance s).wc = s.wc + 1 := rfl
@[simp] theorem advance_hc (s : State) : (advance s).hc = s.hc := rfl
@[simp] theorem advance_dc (s : State) : (advance s).dc = s.dc := rfl
@[simp] theorem advance_plen (s : State) : (advance s).plen = s.plen := rfl
@[simp] theorem advance_ck (s : State) : (advance s).ck = s.ck := rfl
@[simp] theorem advance_fault (s : State) : (advance s).fault = s.fault := rfl
@[simp] theorem advance_buf (s : State) : (advance s).buf = s.buf := rfl
@[simp] theorem advance_dph (s : State) : (advance s).dph = s.dph := rfl
@[simp] theorem advance_cfg (s : State) : (advance s).cfg = s.cfg := rfl
@[simp] theorem advance_draws (s : State) : (advance s).draws = s.draws := rfl
@[simp] theorem advance_outs (s : State) : (advance s).outs = s.outs := rfl
@[simp] theorem advance_evals (s : State) : (advance s).evals = s.evals := rfl
@[simp] theorem advance_input (s : State) : (advance s).input = s.input := rfl
@[simp] theorem advance_held (s : State) : (advance s).held = s.held := rfl

@[simp] theorem raiseOverrun_st (s : State) : (raiseOverrun s).st = s.st := rfl
@[simp] theorem raiseOverrun_wc (s : State) : (raiseOverrun s).wc = s.wc := rfl
@[simp] theorem raiseOverrun_hc (s : State) : (raiseOverrun s).hc = s.hc := rfl
@[simp] theorem raiseOverrun_dc (s : State) : (raiseOverrun s).dc = s.dc := rfl
@[simp] theorem raiseOverrun_plen (s : State) : (raiseOverrun s).plen = s.plen := rfl
@[simp] theorem raiseOverrun_ck (s : State) : (raiseOverrun s).ck = s.ck := rfl
@[simp] theorem raiseOverrun_fault (s : State) : (raiseOverrun s).fault = true := rfl
@[simp] theorem raiseOverrun_buf (s : State) : (raiseOverrun s).buf = s.buf := rfl
@[simp] theorem raiseOverrun_dph (s : State) : (raiseOverrun s).dph = s.dph := rfl
@[simp] theorem raiseOverrun_cfg (s : State) : (raiseOverrun s).cfg = s.cfg := rfl
@[simp] theorem raiseOverrun_draws (s : State) : (raiseOverrun s).draws = s.draws := rfl
@[simp] theorem raiseOverrun_outs (s : State) : (raiseOverrun s).outs = s.outs := rfl
@[simp] theorem raiseOverrun_evals (s : State) : (raiseOverrun s).evals = s.evals := rfl
@[simp] theorem raiseOverrun_input (s : State) : (raiseOverrun s).input = s.input := rfl
@[simp] theorem raiseOverrun_held (s : State) : (raiseOverrun s).held = s.held := rfl

@[simp] theorem fullReset_st (s : State) : (fullReset s).st = .idle := rfl
@[simp] theorem fullReset_wc (s : State) : (fullReset s).wc = 0 := rfl
@[simp] theorem fullReset_hc (s : State) : (fullReset s).hc = 0 := rfl
@[simp] theorem fullReset_dc (s : State) : (fullReset s).dc = 0 := rfl
@[simp] theorem fullReset_plen (s : State) : (fullReset s).plen = 0 := rfl
@[simp] theorem fullReset_ck (s : State) : (fullReset s).ck = false := rfl
@[simp] theorem fullReset_fault (s : State) : (fullReset s).fault = false := rfl
@[simp] theorem fullReset_buf (s : State) : (fullReset s).buf = s.buf := rfl
@[simp] theorem fullReset_dph (s : State) : (fullReset s).dph = .ready := rfl
@[simp] theorem fullReset_cfg (s : State) : (fullReset s).cfg = s.cfg := rfl
@[simp] theorem fullReset_draws (s : State) : (fullReset s).draws = s.draws := rfl
@[simp] theorem fullReset_outs (s : State) : (fullReset s).outs = s.outs := rfl
@[simp] theorem fullReset_evals (s : State) : (fullReset s).evals = s.evals := rfl
@[simp] theorem fullReset_input (s : State) : (fullReset s).input = s.input := rfl
@[simp] theorem fullReset_held (s : State) : (fullReset s).held = s.held := rfl

@[simp] theorem put_st (o : Output) (s : State) : (put o s).st = s.st := rfl
@[simp] theorem put_wc (o : Output) (s : State) : (put o s).wc = s.wc := rfl
@[simp] theorem put_hc (o : Output) (s : State) : (put o s).hc = s.hc := rfl
@[simp] theorem put_dc (o : Output) (s : State) : (put o s).dc = s.dc := rfl
@[simp] theorem put_plen (o : Output) (s : State) : (put o s).plen = s.plen := rfl
@[simp] theorem put_ck (o : Output) (s : State) : (put o s).ck = s.ck := rfl
@[simp] theorem put_fault (o : Output) (s : State) : (put o s).fault = s.fault := rfl
@[simp] theorem put_buf (o : Output) (s : State) : (put o s).buf = s.buf := rfl
@[simp] theorem put_dph (o : Output) (s : State) : (put o s).dph = s.dph := rfl
@[simp] theorem put_cfg (o : Output) (s : State) : (put o s).cfg = s.cfg := rfl
@[simp] theorem put_draws (o : Output) (s : State) : (put o s).draws = s.draws := rfl
@[simp] theorem put_outs (o : Output) (s : State) : (put o s).outs = s.outs ++ [o] := rfl
@[simp] theorem put_evals (o : Output) (s : State) : (put o s).evals = s.evals := rfl
@[simp] theorem put_input (o : Output) (s : State) : (put o s).input = s.input := rfl
@[simp] theorem put_held (o : Output) (s : State) : (put o s).held = s.held := rfl

@[simp] theorem answer_st (r : Result) (s : State) : (answer r s).st = s.st := rfl
@[simp] theorem answer_wc (r : Result) (s : State) : (answer r s).wc = s.wc := rfl
@[simp] theorem answer_hc (r : Result) (s : State) : (answer r s).hc = s.hc := rfl
@[simp] theorem answer_dc (r : Result) (s : State) : (answer r s).dc = s.dc := rfl
@[simp] theorem answer_plen (r : Result) (s : State) : (answer r s).plen = s.plen := rfl
@[simp] theorem answer_ck (r : Result) (s : State) : (answer r s).ck = s.ck := rfl
@[simp] theorem answer_fault (r : Result) (s : State) : (answer r s).fault = s.fault := rfl
@[simp] theorem answer_buf (r : Result) (s : State) : (answer r s).buf = s.buf := rfl
@[simp] theorem answer_dph (r : Result) (s : State) : (answer r s).dph = s.dph := rfl
@[simp] theorem answer_cfg (r : Result) (s : State) : (answer r s).cfg = s.cfg := rfl
@[simp] theorem answer_draws (r : Result) (s : State) : (answer r s).draws = s.draws := rfl
@[simp] theorem answer_outs (r : Result) (s : State) : (answer r s).outs = s.outs ++ [.result r] := rfl
@[simp] theorem answer_evals (r : Result) (s : State) : (answer r s).evals = s.evals := rfl
@[simp] theorem answer_input (r : Result) (s : State) : (answer r s).input = s.input := rfl
@[simp] theorem answer_held (r : Result) (s : State) : (answer r s).held = s.held := rfl

@[simp] theorem evaluate_st (v : FnValue) (s : State) : (evaluate v s).st = s.st := rfl
@[simp] theorem evaluate_wc (v : FnValue) (s : State) : (evaluate v s).wc = s.wc := rfl
@[simp] theorem evaluate_hc (v : FnValue) (s : State) : (evaluate v s).hc = s.hc := rfl
@[simp] theorem evaluate_dc (v : FnValue) (s : State) : (evaluate v s).dc = s.dc := rfl
@[simp] theorem evaluate_plen (v : FnValue) (s : State) : (evaluate v s).plen = s.plen := rfl
@[simp] theorem evaluate_ck (v : FnValue) (s : State) : (evaluate v s).ck = s.ck := rfl
@[simp] theorem evaluate_fault (v : FnValue) (s : State) : (evaluate v s).fault = s.fault := rfl
@[simp] theorem evaluate_buf (v : FnValue) (s : State) : (evaluate v s).buf = s.buf := rfl
@[simp] theorem evaluate_dph (v : FnValue) (s : State) : (evaluate v s).dph = s.dph := rfl
@[simp] theorem evaluate_cfg (v : FnValue) (s : State) : (evaluate v s).cfg = s.cfg := rfl
@[simp] theorem evaluate_draws (v : FnValue) (s : State) : (evaluate v s).draws = s.draws := rfl
@[simp] theorem evaluate_outs (v : FnValue) (s : State) : (evaluate v s).outs = s.outs := rfl
@[simp] theorem evaluate_evals (v : FnValue) (s : State) : (evaluate v s).evals = s.evals ++ [v] := rfl
@[simp] theorem evaluate_input (v : FnValue) (s : State) : (evaluate v s).input = s.input := rfl
@[simp] theorem evaluate_held (v : FnValue) (s : State) : (evaluate v s).held = s.held := rfl

@[simp] theorem useDraws_st (s : State) : (useDraws s).st = s.st := rfl
@[simp] theorem useDraws_wc (s : State) : (useDraws s).wc = s.wc := rfl
@[simp] theorem useDraws_hc (s : State) : (useDraws s).hc = s.hc := rfl
@[simp] theorem useDraws_dc (s : State) : (useDraws s).dc = s.dc := rfl
@[simp] theorem useDraws_plen (s : State) : (useDraws s).plen = s.plen := rfl
@[simp] theorem useDraws_ck (s : State) : (useDraws s).ck = s.ck := rfl
@[simp] theorem useDraws_fault (s : State) : (useDraws s).fault = s.fault := rfl
@[simp] theorem useDraws_buf (s : State) : (useDraws s).buf = s.buf := rfl
@[simp] theorem useDraws_dph (s : State) : (useDraws s).dph = s.dph := rfl
@[simp] theorem useDraws_cfg (s : State) : (useDraws s).cfg = s.cfg := rfl
@[simp] theorem useDraws_draws (s : State) : (useDraws s).draws = s.draws + 4 := rfl
@[simp] theorem useDraws_outs (s : State) : (useDraws s).outs = s.outs := rfl
@[simp] theorem useDraws_evals (s : State) : (useDraws s).evals = s.evals := rfl
@[simp] theorem useDraws_input (s : State) : (useDraws s).input = s.input := rfl
@[simp] theorem useDraws_held (s : State) : (useDraws s).held = s.held := rfl

@[simp] theorem startTransaction_st (req : Byte) (pl : List Byte) (s : State) : (startTransaction req pl s).st = s.st := rfl
@[simp] theorem startTransaction_wc (req : Byte) (pl : List Byte) (s : State) : (startTransaction req pl s).wc = 0 := rfl
@[simp] theorem startTransaction_hc (req : Byte) (pl : List Byte) (s : State) : (startTransaction req pl s).hc = s.hc := rfl
@[simp] theorem startTransaction_dc (req : Byte) (pl : List Byte) (s : State) : (startTransaction req pl s).dc = s.dc := rfl
@[simp] theorem startTransaction_plen (req : Byte) (pl : List Byte) (s : State) : (startTransaction req pl s).plen = s.plen := rfl
@[simp] theorem startTransaction_ck (req : Byte) (pl : List Byte) (s : State) : (startTransaction req pl s).ck = s.ck := rfl
@[simp] theorem startTransaction_fault (req : Byte) (pl : List Byte) (s : State) : (startTransaction req pl s).fault = s.fault := rfl
@[simp] theorem startTransaction_buf (req : Byte) (pl : List Byte) (s : State) : (startTransaction req pl s).buf = s.buf := rfl
@[simp] theorem startTransaction_dph (req : Byte) (pl : List Byte) (s : State) : (startTransaction req pl s).dph = .tx (requestFrame s.cfg req pl) 0 := rfl
@[simp] theorem startTransaction_cfg (req : Byte) (pl : List Byte) (s : State) : (startTransaction req pl s).cfg = s.cfg := rfl
@[simp] theorem startTransaction_draws (req : Byte) (pl : List Byte) (s : State) : (startTransaction req pl s).draws = s.draws := rfl
@[simp] theorem startTransaction_outs (req : Byte) (pl : List Byte) (s : State) : (startTransaction req pl s).outs = s.outs := rfl
@[simp] theorem startTransaction_evals (req : Byte) (pl : List Byte) (s : State) : (startTransaction req pl s).evals = s.evals := rfl
@[simp] theorem startTransaction_input (req : Byte) (pl : List Byte) (s : State) : (startTransaction req pl s).input = s.input := rfl
@[simp] theorem startTransaction_held (req : Byte) (pl : List Byte) (s : State) : (startTransaction req pl s).held = s.held := rfl

@[simp] theorem takeLength_st (s : State) : (takeLength s).st = (if lengthByte s = 0 then .idle else .receivingPayload) := rfl
@[simp] theorem takeLength_wc (s : State) : (takeLength s).wc = s.wc := rfl
@[simp] theorem takeLength_hc (s : State) : (takeLength s).hc = s.hc := rfl
@[simp] theorem takeLength_dc (s : State) : (takeLength s).dc = s.dc := rfl
@[simp] theorem takeLength_plen (s : State) : (takeLength s).plen = lengthByte s := rfl
@[simp] theorem takeLength_ck (s : State) : (takeLength s).ck = s.ck := rfl
@[simp] theorem takeLength_fault (s : State) : (takeLength s).fault = s.fault := rfl
@[simp] theorem takeLength_buf (s : State) : (takeLength s).buf = s.buf := rfl
@[simp] theorem takeLength_dph (s : State) : (takeLength s).dph = s.dph := rfl
@[simp] theorem takeLength_cfg (s : State) : (takeLength s).cfg = s.cfg := rfl
@[simp] theorem takeLength_draws (s : State) : (takeLength s).draws = s.draws := rfl
@[simp] theorem takeLength_outs (s : State) : (takeLength s).outs = s.outs := rfl
@[simp] theorem takeLength_evals (s : State) : (takeLength s).evals = s.evals := rfl
@[simp] theorem takeLength_input (s : State) : (takeLength s).input = s.input := rfl
@[simp] theorem takeLength_held (s : State) : (takeLength s).held = s.held := rfl

@[simp] theorem detectSync_wc (s : State) : (detectSync s).wc = s.wc := by
  unfold detectSync; split <;> [(dsimp only; split <;> rfl); rfl]
@[simp] theorem detectSync_plen (s : State) : (detectSync s).plen = s.plen := by
  unfold detectSync; split <;> [(dsimp only; split <;> rfl); rfl]
@[simp] theorem detectSync_fault (s : State) : (detectSync s).fault = s.fault := by
  unfold detectSync; split <;> [(dsimp only; split <;> rfl); rfl]
@[simp] theorem detectSync_buf (s : State) : (detectSync s).buf = s.buf := by
  unfold detectSync; split <;> [(dsimp only; split <;> rfl); rfl]
@[simp] theorem detectSync_dph (s : State) : (detectSync s).dph = s.dph := by
  unfold detectSync; split <;> [(dsimp only; split <;> rfl); rfl]
@[simp] theorem detectSync_cfg (s : State) : (detectSync s).cfg = s.cfg := by
  unfold detectSync; split <;> [(dsimp only; split <;> rfl); rfl]
@[simp] theorem detectSync_draws (s : State) : (detectSync s).draws = s.draws := by
  unfold detectSync; split <;> [(dsimp only; split <;> rfl); rfl]
@[simp] theorem detectSync_outs (s : State) : (detectSync s).outs = s.outs := by
  unfold detectSync; split <;> [(dsimp only; split <;> rfl); rfl]
@[simp] theorem detectSync_evals (s : State) : (detectSync s).evals = s.evals := by
  unfold detectSync; split <;> [(dsimp only; split <;> rfl); rfl]
@[simp] theorem detectSync_input (s : State) : (detectSync s).input = s.input := by
  unfold detectSync; split <;> [(dsimp only; split <;> rfl); rfl]
@[simp] theorem detectSync_held (s : State) : (detectSync s).held = s.held := by
  unfold detectSync; split <;> [(dsimp only; split <;> rfl); rfl]

@[simp] theorem finishPayload_wc (s : State) : (finishPayload s).wc = s.wc := by
  unfold finishPayload; split <;> rfl
@[simp] theorem finishPayload_hc (s : State) : (finishPayload s).hc = s.hc := by
  unfold finishPayload; split <;> rfl
@[simp] theorem finishPayload_dc (s : State) : (finishPayload s).dc = s.dc := by
  unfold finishPayload; split <;> rfl
@[simp] theorem finishPayload_plen (s : State) : (finishPayload s).plen = s.plen := by
  unfold finishPayload; split <;> rfl
@[simp] theorem finishPayload_ck (s : State) : (finishPayload s).ck = s.ck := by
  unfold finishPayload; split <;> rfl
@[simp] theorem finishPayload_fault (s : State) : (finishPayload s).fault = s.fault := by
  unfold finishPayload; split <;> rfl
@[simp] theorem finishPayload_buf (s : State) : (finishPayload s).buf = s.buf := by
  unfold finishPayload; split <;> rfl
@[simp] theorem finishPayload_dph (s : State) : (finishPayload s).dph = s.dph := by
  unfold finishPayload; split <;> rfl
@[simp] theorem finishPayload_cfg (s : State) : (finishPayload s).cfg = s.cfg := by
  unfold finishPayload; split <;> rfl
@[simp] theorem finishPayload_draws (s : State) : (finishPayload s).draws = s.draws := by
  unfold finishPayload; split <;> rfl
@[simp] theorem finishPayload_outs (s : State) : (finishPayload s).outs = s.outs := by
  unfold finishPayload; split <;> rfl
@[simp] theorem finishPayload_evals (s : State) : (finishPayload s).evals = s.evals := by
  unfold finishPayload; split <;> rfl
@[simp] theorem finishPayload_input (s : State) : (finishPayload s).input = s.input := by
  unfold finishPayload; split <;> rfl
@[simp] theorem finishPayload_held (s : State) : (finishPayload s).held = s.held := by
  unfold finishPayload; split <;> rfl

@[simp] theorem countDraws_st (r : Result) (s : State) : (countDraws r s).st = s.st := by
  cases r <;> rfl
@[simp] theorem countDraws_wc (r : Result) (s : State) : (countDraws r s).wc = s.wc := by
  cases r <;> rfl
@[simp] theorem countDraws_hc (r : Result) (s : State) : (countDraws r s).hc = s.hc := by
  cases r <;> rfl
@[simp] theorem countDraws_dc (r : Result) (s : State) : (countDraws r s).dc = s.dc := by
  cases r <;> rfl
@[simp] theorem countDraws_plen (r : Result) (s : State) : (countDraws r s).plen = s.plen := by
  cases r <;> rfl
@[simp] theorem countDraws_ck (r : Result) (s : State) : (countDraws r s).ck = s.ck := by
  cases r <;> rfl
@[simp] theorem countDraws_fault (r : Result) (s : State) : (countDraws r s).fault = s.fault := by
  cases r <;> rfl
@[simp] theorem countDraws_buf (r : Result) (s : State) : (countDraws r s).buf = s.buf := by
  cases r <;> rfl
@[simp] theorem countDraws_dph (r : Result) (s : State) : (countDraws r s).dph = s.dph := by
  cases r <;> rfl
@[simp] theorem countDraws_cfg (r : Result) (s : State) : (countDraws r s).cfg = s.cfg := by
  cases r <;> rfl
@[simp] theorem countDraws_outs (r : Result) (s : State) : (countDraws r s).outs = s.outs := by
  cases r <;> rfl
@[simp] theorem countDraws_evals (r : Result) (s : State) : (countDraws r s).evals = s.evals := by
  cases r <;> rfl
@[simp] theorem countDraws_input (r : Result) (s : State) : (countDraws r s).input = s.input := by
  cases r <;> rfl
@[simp] theorem countDraws_held (r : Result) (s : State) : (countDraws r s).held = s.held := by
  cases r <;> rfl

@[simp] theorem store_frameEnd (b : Byte) (s : State) : frameEnd (store b s) = frameEnd s := rfl
@[simp] theorem advance_frameEnd (s : State) : frameEnd (advance s) = frameEnd s := rfl
@[simp] theorem finishPayload_frameEnd (s : State) : frameEnd (finishPayload s) = frameEnd s := by
  simp [frameEnd]
@[simp] theorem put_frameEnd (o : Output) (s : State) : frameEnd (put o s) = frameEnd s := rfl
@[simp] theorem evaluate_frameEnd (v : FnValue) (s : State) : frameEnd (evaluate v s) = frameEnd s := rfl

end Sys2Proof.Machine
end

