-- ==== Sys2Proof/Laws/Memory.lean ====
section
/-! SUPPORT. The laws of the receive buffer: a read after a write, every other index, and the canonical form. -/

namespace Sys2Proof.Machine

@[simp] theorem read_write_same (m : List Host.Cell) (i : Nat) (b : Byte) :
    Memory.read (Memory.write m i b) i = some b := by
  induction m with
  | nil => simp [Memory.write, Memory.read]
  | cons c m ih =>
    obtain ⟨a, c⟩ := c
    unfold Memory.write
    split
    · simp [Memory.read]
    · split
      · simp [Memory.read]
      · rename_i h
        simp [Memory.read, Ne.symm h, ih]

theorem read_write_other (m : List Host.Cell) {i j : Nat} (b : Byte) (h : j ≠ i) :
    Memory.read (Memory.write m i b) j = Memory.read m j := by
  induction m with
  | nil => simp [Memory.write, Memory.read, Ne.symm h]
  | cons c m ih =>
    obtain ⟨a, c⟩ := c
    unfold Memory.write
    split
    · simp [Memory.read, Ne.symm h]
    · split
      · rename_i h'
        subst h'
        simp [Memory.read, Ne.symm h]
      · simp [Memory.read, ih]

theorem wfFrom_write {lo i : Nat} {m : List Host.Cell} (b : Byte) (h : Memory.wfFrom lo m = true)
    (hlo : lo ≤ i) (hi : i < CAP) : Memory.wfFrom lo (Memory.write m i b) = true := by
  induction m generalizing lo with
  | nil => simp [Memory.write, Memory.wfFrom, hlo, hi]
  | cons c m ih =>
    obtain ⟨a, c⟩ := c
    simp only [Memory.wfFrom, Bool.and_eq_true, decide_eq_true_eq] at h
    obtain ⟨⟨hla, hac⟩, hm⟩ := h
    unfold Memory.write
    split
    · rename_i hia
      simp [Memory.wfFrom, hlo, hi, hac, hm, Nat.succ_le_of_lt hia]
    · split
      · rename_i hia
        subst hia
        simp [Memory.wfFrom, hlo, hi, hm]
      · simp [Memory.wfFrom, hla, hac, ih hm (by omega)]

/-- A write below `CAP` keeps the canonical form; `Memory.write` is the only operation that changes the buffer. -/
theorem wf_write {m : List Host.Cell} {i : Nat} (b : Byte) (h : Memory.wf m = true) (hi : i < CAP) :
    Memory.wf (Memory.write m i b) = true :=
  wfFrom_write b h (Nat.zero_le i) hi

/-- A buffer in canonical form from `lo` on holds no byte at an index below `lo` or past the buffer. -/
theorem read_of_wfFrom {lo i : Nat} {m : List Host.Cell} (h : Memory.wfFrom lo m = true) (hi : i < lo ∨ CAP ≤ i) :
    Memory.read m i = none := by
  induction m generalizing lo with
  | nil => rfl
  | cons c m ih =>
    obtain ⟨a, b⟩ := c
    simp only [Memory.wfFrom, Bool.and_eq_true, decide_eq_true_eq] at h
    obtain ⟨⟨hla, hac⟩, hm⟩ := h
    rw [Memory.read, if_neg (show ¬a = i by omega)]
    exact ih hm (by omega)

/-- The buffer after power-on has the canonical form. -/
theorem wf_powerOn (c : Cfg) : Memory.wf (State.powerOn c).buf = true := rfl

@[simp] theorem cell_store_same (b : Byte) (s : State) : cell (store b s) s.wc = b := by
  simp [cell]

theorem cell_store_other (b : Byte) (s : State) {i : Nat} (h : i ≠ s.wc) : cell (store b s) i = cell s i := by
  simp [cell, read_write_other _ _ h]

/-- A cell is a function of the buffer alone. -/
theorem cell_congr {s t : State} (h : t.buf = s.buf) (i : Nat) : cell t i = cell s i := by
  simp [cell, h]

@[simp] theorem bytesAt_length (s : State) (i n : Nat) : (bytesAt s i n).length = n := by
  induction n generalizing i with
  | zero => rfl
  | succ n ih => simp [bytesAt, ih]

/-- The bytes of a range are a function of the cells in it. -/
theorem bytesAt_congr {s t : State} {i n : Nat} (h : ∀ j, i ≤ j → j < i + n → cell t j = cell s j) :
    bytesAt t i n = bytesAt s i n := by
  induction n generalizing i with
  | zero => rfl
  | succ n ih =>
    simp only [bytesAt]
    rw [h i (Nat.le_refl i) (by omega), ih fun j h1 h2 => h j (by omega) (by omega)]

theorem bytesAt_getElem? (s : State) {i n k : Nat} (h : k < n) : (bytesAt s i n)[k]? = some (cell s (i + k)) := by
  induction n generalizing i k with
  | zero => omega
  | succ n ih =>
    cases k with
    | zero => rfl
    | succ k =>
      simp only [bytesAt, List.getElem?_cons_succ]
      rw [ih (by omega), Nat.add_right_comm, Nat.add_assoc]

end Sys2Proof.Machine
end

