-- ==== Sys2Proof/Laws/Codec.lean ====
section
/-! SUPPORT. The laws of the multi-byte values and of the checksum sum (00_scope.md R14, 41_codec.md R134). -/

namespace Sys2Proof.Machine

/-- A byte appended below a value of any width. -/
theorem toNat_append_byte {n : Nat} (hi : BitVec n) (lo : Byte) : (hi ++ lo).toNat = 256 * hi.toNat + lo.toNat := by
  rw [BitVec.toNat_append, Nat.shiftLeft_eq, Nat.mul_comm, ← Nat.two_pow_add_eq_or_of_lt lo.isLt]

theorem le16_toNat (lo hi : Byte) : (le16 lo hi).toNat = lo.toNat + 256 * hi.toNat := by
  rw [le16, toNat_append_byte, Nat.add_comm]

theorem loByte_le16 (lo hi : Byte) : loByte (le16 lo hi) = lo := by
  have h1 := hi.isLt
  have h2 := lo.isLt
  apply BitVec.eq_of_toNat_eq
  rw [loByte, BitVec.extractLsb'_toNat, le16_toNat]
  simp [Nat.shiftRight_eq_div_pow]
  omega

theorem hiByte_le16 (lo hi : Byte) : hiByte (le16 lo hi) = hi := by
  have h1 := hi.isLt
  have h2 := lo.isLt
  apply BitVec.eq_of_toNat_eq
  rw [hiByte, BitVec.extractLsb'_toNat, le16_toNat]
  simp [Nat.shiftRight_eq_div_pow]
  omega

/-- A 16-bit value is its two bytes, low byte first. -/
theorem le16_bytes (v : Half) : le16 (loByte v) (hiByte v) = v := by
  have h := v.isLt
  apply BitVec.eq_of_toNat_eq
  rw [le16_toNat, loByte, hiByte, BitVec.extractLsb'_toNat, BitVec.extractLsb'_toNat]
  simp [Nat.shiftRight_eq_div_pow]
  omega

/-- The sum is the natural-number sum modulo 2^16. -/
theorem checksum_toNat (l : List Byte) : (checksum l).toNat = (l.map BitVec.toNat).sum % 65536 := by
  induction l with
  | nil => rfl
  | cons b bs ih =>
    have := b.isLt
    simp [checksum, ih]

theorem bytesAt_add (s : State) (i m n : Nat) : bytesAt s i (m + n) = bytesAt s i m ++ bytesAt s (i + m) n := by
  induction m generalizing i with
  | zero => simp [bytesAt]
  | succ m ih =>
    rw [show m + 1 + n = m + n + 1 by omega]
    simp only [bytesAt, List.cons_append, ih]
    rw [show i + 1 + m = i + (m + 1) by omega]

theorem bytesAt_eq_map (s : State) (n i : Nat) : bytesAt s i n = (List.range n).map fun k => cell s (i + k) := by
  induction n generalizing i with
  | zero => rfl
  | succ n ih =>
    rw [List.range_succ_eq_map]
    simp only [bytesAt, ih, List.map_cons, List.map_map, Nat.add_zero]
    congr 1
    apply List.map_congr_left
    intro k _
    simp [show i + 1 + k = i + (k + 1) by omega]

end Sys2Proof.Machine
end

