-- ==== Sys2Proof/Laws/Receiver.lean ====
section
/-! SUPPORT. Everything one `RX` step can do (40_receiver.md R100). -/

namespace Sys2Proof.Machine

@[simp] theorem within_next_iff {top : Nat} {t u : State} :
    within top (.next t) = .next u ↔ top ≤ CAP ∧ t = u := by
  unfold within
  split <;> simp_all

theorem within_of_le {top : Nat} (o : Host.Outcome State Fault Refusal) (h : top ≤ CAP) : within top o = o :=
  if_pos h

@[simp] theorem andThen_next (s : State) (f : State → Host.Outcome State Fault Refusal) :
    andThen (.next s) f = f s := rfl

theorem andThen_eq_next {o : Host.Outcome State Fault Refusal} {f : State → Host.Outcome State Fault Refusal}
    {t : State} (h : andThen o f = .next t) : ∃ u, o = .next u ∧ f u = .next t := by
  cases o with
  | next u => exact ⟨u, rfl, h⟩
  | fault r => cases h
  | refused r => cases h

/-- The five things a receive that stores its byte can do, by the state it is in (R104 to R111). -/
theorem receiveRule_cases {s t : State} (h : receiveRule s = .next t) :
    ((s.st = .idle ∨ s.st = .complete) ∧ t = s) ∨
    (s.st = .sent ∧ t = detectSync s) ∨
    (s.st = .receivingHeader ∧ s.dc ≤ s.wc + 1 ∧ s.hc + 4 ≤ CAP ∧ t = takeLength s) ∨
    (s.st = .receivingHeader ∧ s.wc + 1 < s.dc ∧ t = s) ∨
    (s.st = .receivingPayload ∧ t = finishPayload s) := by
  unfold receiveRule at h
  split at h
  · rename_i hs; cases h; simp [hs]
  · rename_i hs; cases h; simp [hs]
  · rename_i hs; cases h; simp [hs]
  · rename_i hs
    split at h
    · rename_i hd
      obtain ⟨h1, h2⟩ := within_next_iff.mp h
      simp [hs, hd, h1, h2]
    · rename_i hd
      cases h
      simp [hs, Nat.lt_of_not_le hd]
  · rename_i hs; cases h; simp [hs]

/-- R101, R102, R103: a byte is dropped, overruns, or is stored and moves the cursor. -/
theorem receive_cases {b : Byte} {s t : State} (h : receive b s = .next t) :
    (s.fault = true ∧ t = s) ∨
    (s.fault = false ∧ CAP ≤ s.wc ∧ t = raiseOverrun s) ∨
    (s.fault = false ∧ s.wc < CAP ∧ ∃ u, receiveRule (store b s) = .next u ∧ t = advance u) := by
  unfold receive at h
  split at h
  · rename_i hf; cases h; exact .inl ⟨hf, rfl⟩
  · rename_i hf
    split at h
    · rename_i hw; cases h; exact .inr (.inl ⟨by simpa using hf, hw, rfl⟩)
    · rename_i hw
      obtain ⟨u, hu, ht⟩ := andThen_eq_next h
      cases ht
      exact .inr (.inr ⟨by simpa using hf, Nat.lt_of_not_le hw, u, hu, rfl⟩)

/-- R103: with no fault and room in the buffer the byte is stored, the state's rule runs, and the cursor moves. -/
theorem receive_stored (b : Byte) {s : State} (hf : s.fault = false) (hw : s.wc < CAP) :
    receive b s = andThen (receiveRule (store b s)) (fun t => .next (advance t)) := by
  simp [receive, hf, Nat.not_le_of_lt hw]

/-- R104. -/
theorem receiveRule_idle {s : State} (h : s.st = .idle ∨ s.st = .complete) : receiveRule s = .next s := by
  rcases h with h | h <;> simp [receiveRule, h]

/-- R105 to R107. -/
theorem receiveRule_sent {s : State} (h : s.st = .sent) : receiveRule s = .next (detectSync s) := by
  simp [receiveRule, h]

/-- R108 to R110, at the header's last byte. -/
theorem receiveRule_headerEnd {s : State} (h : s.st = .receivingHeader) (hd : s.dc ≤ s.wc + 1) :
    receiveRule s = within (s.hc + 4) (.next (takeLength s)) := by
  simp [receiveRule, h, hd]

/-- R108, before it. -/
theorem receiveRule_header {s : State} (h : s.st = .receivingHeader) (hd : s.wc + 1 < s.dc) :
    receiveRule s = .next s := by
  simp [receiveRule, h, Nat.not_le_of_lt hd]

/-- R111. -/
theorem receiveRule_payload {s : State} (h : s.st = .receivingPayload) :
    receiveRule s = .next (finishPayload s) := by
  simp [receiveRule, h]

theorem receiveRule_not_refused (s : State) (r : Refusal) : receiveRule s ≠ .refused r := by
  unfold receiveRule within
  split <;> (try split) <;> (try split) <;> simp

/-- A receive is never refused. -/
theorem receive_not_refused (b : Byte) (s : State) (r : Refusal) : receive b s ≠ .refused r := by
  unfold receive andThen
  split
  · simp
  · split
    · simp
    · split
      · simp
      · simp
      · rename_i h
        exact absurd h (receiveRule_not_refused _ _)

/-- What sync detection can do (R105, R106). -/
theorem detectSync_cases (s : State) :
    detectSync s = s ∨
    (1 ≤ s.wc ∧ isSync s.cfg (le16 (cell s (s.wc - 1)) (cell s s.wc)) = true ∧
      detectSync s =
        { s with
          hc := s.wc - 1
          ck := ckOf s.cfg (le16 (cell s (s.wc - 1)) (cell s s.wc))
          dc := (s.wc - 1) + headerSize (ckOf s.cfg (le16 (cell s (s.wc - 1)) (cell s s.wc)))
          st := .receivingHeader }) := by
  unfold detectSync
  split
  · rename_i hw
    dsimp only
    split
    · rename_i hs
      exact .inr ⟨hw, hs, rfl⟩
    · exact .inl rfl
  · exact .inl rfl

/-- What the end of a payload can do (R111). -/
theorem finishPayload_cases (s : State) :
    (frameEnd s ≤ s.wc + 1 ∧ finishPayload s = { s with st := .complete }) ∨
    (s.wc + 1 < frameEnd s ∧ finishPayload s = s) := by
  unfold finishPayload
  split
  · rename_i h; exact .inl ⟨h, rfl⟩
  · rename_i h; exact .inr ⟨Nat.lt_of_not_le h, rfl⟩

/-- A property of the state that every receive keeps is kept by a whole list of bytes. -/
theorem receiveAll_keeps {P : State → Prop} (hP : ∀ b s t, P s → receive b s = .next t → P t) :
    ∀ (bs : List Byte) (s t : State), P s → receiveAll bs s = .next t → P t
  | [], s, t, hs, h => by cases h; exact hs
  | b :: bs, s, t, hs, h => by
    obtain ⟨u, hu, ht⟩ := andThen_eq_next h
    exact receiveAll_keeps hP bs u t (hP b s u hs hu) ht

theorem receiveAll_append (as bs : List Byte) (s : State) :
    receiveAll (as ++ bs) s = andThen (receiveAll as s) (receiveAll bs) := by
  induction as generalizing s with
  | nil => rfl
  | cons a as ih =>
    simp only [List.cons_append, receiveAll]
    cases receive a s with
    | next u => exact ih u
    | fault r => rfl
    | refused r => rfl

end Sys2Proof.Machine
end

