-- ==== Sys2Proof/Laws/Dispatcher.lean ====
section
/-! SUPPORT. Everything the dispatcher's shared operations can do (42_dispatcher.md R151 to R163). -/

namespace Sys2Proof.Machine

@[simp] theorem admitted_next_iff {ok : Bool} {o : Host.Outcome State Fault Refusal} {t : State} :
    admitted ok o = .next t ↔ ok = true ∧ o = .next t := by
  unfold admitted
  cases ok <;> simp

@[simp] theorem hold_next_iff {s t : State} : hold s = .next t ↔ s = t := by
  simp [hold]

/-- R154: a byte on offer is emitted, or there is no step. -/
theorem sendByte_cases {s t : State} (h : sendByte s = .next t) :
    (∃ f i b, s.dph = .tx f i ∧ f[i]? = some b ∧ t = put (.tx b) { s with dph := .tx f (i + 1) }) ∨
    (offered s.dph = none ∧ t = s) := by
  unfold sendByte at h
  split at h
  · rename_i hd; cases h; exact .inr ⟨by simp [hd, offered], rfl⟩
  · rename_i f i hd
    split at h
    · rename_i b hb; cases h; exact .inl ⟨f, i, b, hd, hb, rfl⟩
    · rename_i hb; cases h; exact .inr ⟨by simpa [hd, offered] using hb, rfl⟩

/-- R155: the start completes, or there is no step. -/
theorem finishStart_cases {s t : State} (h : finishStart s = .next t) :
    (allSent s.dph = true ∧ t = answer (startResult s) { s with st := .sent, dph := .ready }) ∨
    (allSent s.dph = false ∧ t = s) := by
  unfold finishStart at h
  split at h
  · rename_i ha; cases h; exact .inl ⟨ha, rfl⟩
  · rename_i ha; cases h; exact .inr ⟨by simpa using ha, rfl⟩

/-- R158: the harvest answers its result, goes to `Idle`, and counts the draws of an error code. -/
theorem harvestWith_cases {d : Descriptor} {s t : State} (h : harvestWith d s = .next t) :
    harvestTop d s ≤ CAP ∧
      t = countDraws (harvestResult d s) (answer (harvestResult d s) { s with st := .idle }) := by
  obtain ⟨h1, h2⟩ := within_next_iff.mp h
  exact ⟨h1, h2.symm⟩

/-- R151: the six ends of a poll with an admitted descriptor. -/
theorem pollWith_cases {d : Descriptor} {s t : State} (h : pollWith d s = .next t) :
    d.wf = true ∧
    ((s.dph ≠ .ready ∧ t = s) ∨
     (s.dph = .ready ∧ s.fault = true ∧ t = answer .fault s) ∨
     (s.dph = .ready ∧ s.fault = false ∧ s.st = .idle ∧ t = startTransaction d.req d.pl s) ∨
     (s.dph = .ready ∧ s.fault = false ∧ s.st ≠ .idle ∧ s.st ≠ .complete ∧ t = answer .busy s) ∨
     (s.dph = .ready ∧ s.fault = false ∧ s.st = .complete ∧ harvestWith d s = .next t)) := by
  obtain ⟨hd, h⟩ := admitted_next_iff.mp h
  refine ⟨hd, ?_⟩
  split at h
  · rename_i hp; cases h; simp [hp]
  · rename_i hp
    split at h
    · rename_i hf; cases h; simp [hp, hf]
    · rename_i hf
      split at h
      · rename_i hs; cases h; simp [hp, hf, hs]
      · rename_i hs; cases h; simp [hp, hf, hs]
      · rename_i hs; cases h; simp [hp, hf, hs]
      · rename_i hs; cases h; simp [hp, hf, hs]
      · rename_i hs; simp [hp, hf, hs, h]

theorem admitted_of {ok : Bool} (o : Host.Outcome State Fault Refusal) (h : ok = true) : admitted ok o = o :=
  if_pos h

/-- R151 in `Complete`: a poll is a harvest. -/
theorem pollWith_complete {d : Descriptor} {s : State} (hw : d.wf = true) (hd : s.dph = .ready)
    (hf : s.fault = false) (hs : s.st = .complete) : pollWith d s = harvestWith d s := by
  rw [pollWith, admitted_of _ hw, hd]
  dsimp only
  rw [if_neg (by simp [hf]), hs]

/-- With the dispatcher ready the completing step is the poll itself. -/
theorem completionStep_ready {d : Descriptor} {s : State} (hd : s.dph = .ready) :
    completionStep d s = pollWith d s := by
  unfold completionStep
  split
  · rename_i h; simp [hd] at h
  · rfl

/-- A completion row whose poll completes with its kind of result is the step that completes it. -/
theorem completeWith_of {d : Descriptor} {s : State} {r : Result} (hw : d.wf = true) (hr : completion d s = some r) :
    completeWith (resultKind r) d s = completionStep d s := by
  rw [completeWith, admitted_of _ hw, if_pos (by simp [hr])]

/-- A completion row either does the step that completes the poll, or nothing. -/
theorem completeWith_cases {k : ResultKind} {d : Descriptor} {s t : State} (h : completeWith k d s = .next t) :
    finishStart s = .next t ∨ pollWith d s = .next t ∨ t = s := by
  obtain ⟨_, h⟩ := admitted_next_iff.mp h
  split at h
  · unfold completionStep at h
    split at h
    · exact .inl h
    · exact .inr (.inl h)
  · cases h; exact .inr (.inr rfl)

end Sys2Proof.Machine
end

