-- ==== Sys2Proof/Laws/Decoder.lean ====
section
/-! SUPPORT. Everything the operations behind the function rows, the status rows and the whole request frame can do. -/

namespace Sys2Proof.Machine

/-- R180: a decoder run on its own answers its value and changes nothing else. -/
theorem evaluateDecoder_cases {k : DecodeKind} {s t : State} (h : evaluateDecoder k s = .next t) :
    k.wf = true ∧ decodeTop k s ≤ CAP ∧ t = evaluate (.decoded (decodePayload k s)) s := by
  obtain ⟨h1, h2⟩ := admitted_next_iff.mp h
  obtain ⟨h3, h4⟩ := within_next_iff.mp h2
  exact ⟨h1, h3, h4.symm⟩

/-- R180, the other way. -/
theorem evaluateDecoder_of {k : DecodeKind} {s : State} (hw : k.wf = true) (ht : decodeTop k s ≤ CAP) :
    evaluateDecoder k s = .next (evaluate (.decoded (decodePayload k s)) s) := by
  rw [evaluateDecoder, admitted_of _ hw, within_of_le _ ht]

/-- R189: no pass reads at or past the end of the payload. -/
theorem walkTop_le (s : State) (stop fuel p : Nat) : walkTop s stop fuel p ≤ stop := by
  induction fuel generalizing p with
  | zero => exact Nat.zero_le _
  | succ n ih =>
    unfold walkTop
    split
    · omega
    · split
      · omega
      · exact Nat.max_le.mpr ⟨by omega, ih _⟩

/-- R55, R189: a decoder reads inside the payload. -/
theorem decodeTop_le (k : DecodeKind) (s : State) : decodeTop k s ≤ frameEnd s := by
  cases k with
  | fixed => exact Nat.zero_le _
  | array _ => exact Nat.zero_le _
  | tlv => exact walkTop_le ..

/-- A decoder run on its own stops only as `Fault.bufferIndex`, and only where it reads an index past the buffer (log
entry 8). -/
theorem evaluateDecoder_fault_iff {k : DecodeKind} {s : State} {r : Fault} :
    evaluateDecoder k s = .fault r ↔ k.wf = true ∧ CAP < decodeTop k s ∧ r = .bufferIndex (decodeTop k s) := by
  constructor
  · intro h
    unfold evaluateDecoder admitted within at h
    split at h
    · split at h
      · cases h
      · cases h
        exact ⟨‹_›, by omega, rfl⟩
    · cases h
  · rintro ⟨hw, ht, rfl⟩
    rw [evaluateDecoder, admitted_of _ hw, within, if_neg (by omega)]

/-- R193: a status row is a status read, or no step. -/
theorem statusIs_cases {k : TState} {s t : State} (h : statusIs k s = .next t) :
    (s.st = k ∧ t = put (statusWord s) s) ∨ (s.st ≠ k ∧ t = s) := by
  unfold statusIs at h
  split at h
  · rename_i hk; cases h; exact .inl ⟨hk, rfl⟩
  · rename_i hk; cases h; exact .inr ⟨hk, rfl⟩

/-- One pass of the walk (R183): it ends, or a record that fits joins and the walk goes on after it. -/
theorem walk_succ (s : State) (stop fuel p : Nat) (acc : TlvAcc) :
    walk s stop (fuel + 1) p acc =
      if p + 2 + (cell s (p + 1)).toNat ≤ stop then
        walk s stop fuel (p + 2 + (cell s (p + 1)).toNat)
          (recordSeen s.cfg (cell s p) (p + 2) (cell s (p + 1)).toNat acc)
      else acc := by
  rw [walk]
  split
  · split
    · rw [if_neg (by omega)]
    · split
      · rw [if_neg (by omega)]
      · rw [if_pos (by omega)]
  · rw [if_neg (by omega)]

/-- R154 repeated: nothing but the dispatcher phase and the observation moves. -/
theorem sendBytes_cases {n : Nat} {s t : State} (h : sendBytes n s = .next t) :
    ∃ dph outs, t = { s with dph := dph, outs := s.outs ++ outs } := by
  induction n generalizing s with
  | zero => cases h; exact ⟨_, [], by simp; rfl⟩
  | succ n ih =>
    obtain ⟨u, hu, ht⟩ := andThen_eq_next h
    obtain ⟨dph, outs, e⟩ := ih ht
    rcases sendByte_cases hu with ⟨f, i, b, _, _, hu⟩ | ⟨_, hu⟩
    · subst hu
      exact ⟨dph, .tx b :: outs, by simp [e, put]⟩
    · subst hu
      exact ⟨dph, outs, e⟩

end Sys2Proof.Machine
end

