-- ==== Sys2Proof/Laws/Parsers.lean ====
section
/-! SUPPORT. One law in each direction for every parser of Decode.lean: it reads what the encoder wrote, and what it reads is
what the encoder writes. -/

namespace Sys2Proof

theorem mapParsed_eq_ok {α β : Type} {f : α → β} {p : Parsed α} {b : β} {r : List Byte}
    (h : mapParsed f p = .ok (b, r)) : ∃ a, p = .ok (a, r) ∧ f a = b := by
  unfold mapParsed at h
  split at h
  · cases h; exact ⟨_, rfl, rfl⟩
  · cases h

theorem byte_eq_of_toNat {b : Byte} {n : Nat} (h : b.toNat = n) : b = BitVec.ofNat 8 n := by
  have := b.isLt
  apply BitVec.eq_of_toNat_eq
  simp only [BitVec.toNat_ofNat]
  omega

theorem takeByte_eq_ok {bs r : List Byte} {b : Byte} (h : takeByte bs = .ok (b, r)) : bs = b :: r := by
  unfold takeByte at h
  split at h <;> cases h
  rfl

theorem takeBytes_append (pl rest : List Byte) : takeBytes pl.length (pl ++ rest) = .ok (pl, rest) := by
  induction pl with
  | nil => rfl
  | cons b pl ih => simp [takeBytes, ih, mapParsed]

theorem takeBytes_eq_ok {n : Nat} {bs pl r : List Byte} (h : takeBytes n bs = .ok (pl, r)) :
    pl.length = n ∧ bs = pl ++ r := by
  induction n generalizing bs pl with
  | zero => simp only [takeBytes] at h; cases h; simp
  | succ n ih =>
    cases bs with
    | nil => cases h
    | cons b bs =>
      simp only [takeBytes] at h
      obtain ⟨a, h1, h2⟩ := mapParsed_eq_ok h
      obtain ⟨h3, h4⟩ := ih h1
      subst h2
      simp [h3, h4]

theorem takePayload_append {pl : List Byte} (rest : List Byte) (h : pl.length ≤ maxPayload) :
    takePayload (payloadBytes pl ++ rest) = .ok (pl, rest) := by
  have h' : pl.length ≤ 255 := h
  have hc : countOf (BitVec.ofNat 8 pl.length) (BitVec.ofNat 8 (pl.length / 256)) = pl.length := by
    simp [countOf]
    omega
  show takePayload (_ :: _ :: (pl ++ rest)) = _
  unfold takePayload
  simp only [hc]
  rw [if_pos h, takeBytes_append]

theorem takePayload_eq_ok {bs pl r : List Byte} (h : takePayload bs = .ok (pl, r)) :
    pl.length ≤ maxPayload ∧ bs = payloadBytes pl ++ r := by
  unfold takePayload at h
  split at h
  · rename_i lo hi bs'
    split at h
    · rename_i hc
      obtain ⟨h1, h2⟩ := takeBytes_eq_ok h
      refine ⟨h1 ▸ hc, ?_⟩
      have hl := lo.isLt
      have hh := hi.isLt
      have e1 : BitVec.ofNat 8 (lo.toNat + 256 * hi.toNat) = lo := by
        apply BitVec.eq_of_toNat_eq
        simp
        omega
      have e2 : BitVec.ofNat 8 ((lo.toNat + 256 * hi.toNat) / 256) = hi := by
        apply BitVec.eq_of_toNat_eq
        simp
        omega
      unfold payloadBytes
      rw [h1, h2]
      unfold countOf
      rw [e1, e2]
      rfl
    · cases h
  · cases h

theorem takeKind_append {k : DecodeKind} (rest : List Byte) (h : k.wf = true) :
    takeKind (kindBytes k ++ rest) = .ok (k, rest) := by
  cases k with
  | fixed => rfl
  | tlv => rfl
  | array rs =>
    have : rs ≠ 0 := by simpa [DecodeKind.wf] using h
    show (if rs = 0 then _ else _) = _
    rw [if_neg this]
    rfl

theorem takeKind_eq_ok {bs r : List Byte} {k : DecodeKind} (h : takeKind bs = .ok (k, r)) :
    k.wf = true ∧ bs = kindBytes k ++ r := by
  unfold takeKind at h
  split at h
  · cases h
  · split at h
    · rename_i hc
      cases h
      exact ⟨rfl, by rw [byte_eq_of_toNat hc]; rfl⟩
    · rename_i hc
      split at h
      · cases h
      · split at h
        · cases h
        · rename_i hr
          cases h
          exact ⟨by simpa [DecodeKind.wf] using hr, by rw [byte_eq_of_toNat hc]; rfl⟩
    · rename_i hc
      cases h
      exact ⟨rfl, by rw [byte_eq_of_toNat hc]; rfl⟩
    · cases h

theorem takeDescriptor_append {d : Descriptor} (rest : List Byte) (h : d.wf = true) :
    takeDescriptor (descriptorBytes d ++ rest) = .ok (d, rest) := by
  obtain ⟨h1, h2⟩ := Bool.and_eq_true_iff.mp h
  simp only [descriptorBytes, List.cons_append, List.append_assoc, takeDescriptor, takeKind_append _ h2,
    takePayload_append _ (of_decide_eq_true h1), mapParsed]

theorem takeDescriptor_eq_ok {bs r : List Byte} {d : Descriptor} (h : takeDescriptor bs = .ok (d, r)) :
    d.wf = true ∧ bs = descriptorBytes d ++ r := by
  unfold takeDescriptor at h
  split at h
  · split at h
    · cases h
    · rename_i hk
      obtain ⟨a, h1, h2⟩ := mapParsed_eq_ok h
      obtain ⟨k1, k2⟩ := takeKind_eq_ok hk
      obtain ⟨p1, p2⟩ := takePayload_eq_ok h1
      subst h2
      have hp : decide (a.length ≤ maxPayload) = true := decide_eq_true p1
      exact ⟨by simp only [Descriptor.wf, hp, k1, Bool.and_self], by simp [descriptorBytes, k2, p2]⟩
  · cases h

theorem takeRecordSize_cons {rs : Byte} (rest : List Byte) (h : (rs != 0) = true) :
    takeRecordSize (rs :: rest) = .ok (rs, rest) := by
  have : rs ≠ 0 := by simpa using h
  show (if rs = 0 then _ else _) = _
  rw [if_neg this]

theorem takeRecordSize_eq_ok {bs r : List Byte} {rs : Byte} (h : takeRecordSize bs = .ok (rs, r)) :
    (rs != 0) = true ∧ bs = rs :: r := by
  unfold takeRecordSize at h
  split at h
  · cases h
  · split at h
    · cases h
    · rename_i hr
      cases h
      exact ⟨by simpa using hr, rfl⟩

theorem takeRequest_append {pl : List Byte} (req : Byte) (rest : List Byte) (h : pl.length ≤ maxPayload) :
    takeRequest (req :: payloadBytes pl ++ rest) = .ok ((req, pl), rest) := by
  simp only [List.cons_append, takeRequest, takePayload_append _ h, mapParsed]

theorem takeRequest_eq_ok {bs r : List Byte} {q : Byte × List Byte} (h : takeRequest bs = .ok (q, r)) :
    q.2.length ≤ maxPayload ∧ bs = q.1 :: payloadBytes q.2 ++ r := by
  unfold takeRequest at h
  split at h
  · obtain ⟨a, h1, h2⟩ := mapParsed_eq_ok h
    obtain ⟨p1, p2⟩ := takePayload_eq_ok h1
    subst h2
    exact ⟨p1, by simp [p2]⟩
  · cases h

end Sys2Proof
end

