-- ==== Sys2Proof/Laws/PerInstr.lean ====
section
/-! SUPPORT. Statements made for every instruction as syntax, one lemma per constructor. -/

namespace Sys2Proof.Laws.WordShape

/-- The word of a well-formed instruction starts with an assigned first byte (bits 7..6 zero) and fits the longest
instruction. -/
def Statement (i : Instr) : Prop :=
  i.wf = true → (∃ op r, encode i = op :: r ∧ op.toNat < 0x40) ∧ (encode i).length ≤ maxWordBytes

theorem payload_le {pl : List Byte} (h : decide (pl.length ≤ maxPayload) = true) : pl.length ≤ 255 :=
  of_decide_eq_true h

theorem kindBytes_length (k : DecodeKind) : (kindBytes k).length ≤ 2 := by
  cases k <;> simp [kindBytes]

theorem descriptorBytes_length {d : Descriptor} (h : d.wf = true) : (descriptorBytes d).length ≤ 261 := by
  have hk := kindBytes_length d.dk
  have hp := payload_le (Bool.and_eq_true_iff.mp h).1
  simp only [descriptorBytes, payloadBytes, List.length_cons, List.length_append]
  omega

theorem rx (b : Byte) : Statement (.rx b) := by
  exact fun _ => ⟨⟨_, _, rfl, by decide⟩, by simp [encode, maxWordBytes]⟩

theorem txack : Statement .txack := by
  exact fun _ => ⟨⟨_, _, rfl, by decide⟩, by simp [encode, maxWordBytes]⟩

theorem poll (d : Descriptor) : Statement (.poll d) := by
  intro h
  have := descriptorBytes_length (d := d) h
  refine ⟨⟨_, _, rfl, by decide⟩, ?_⟩
  simp only [encode, maxWordBytes, List.length_cons]
  omega

theorem reset : Statement .reset := by
  exact fun _ => ⟨⟨_, _, rfl, by decide⟩, by simp [encode, maxWordBytes]⟩

theorem view (a : Byte) : Statement (.view a) := by
  exact fun _ => ⟨⟨_, _, rfl, by decide⟩, by simp [encode, maxWordBytes]⟩

theorem status : Statement .status := by
  exact fun _ => ⟨⟨_, _, rfl, by decide⟩, by simp [encode, maxWordBytes]⟩

theorem reservedEvent6 : Statement .reservedEvent6 := by
  exact fun _ => ⟨⟨_, _, rfl, by decide⟩, by simp [encode, maxWordBytes]⟩

theorem reservedEvent7 : Statement .reservedEvent7 := by
  exact fun _ => ⟨⟨_, _, rfl, by decide⟩, by simp [encode, maxWordBytes]⟩

theorem startReset (d : Descriptor) : Statement (.startReset d) := by
  intro h
  have := descriptorBytes_length (d := d) h
  refine ⟨⟨_, _, rfl, by decide⟩, ?_⟩
  simp only [encode, maxWordBytes, List.length_cons]
  omega

theorem txByte : Statement .txByte := by
  exact fun _ => ⟨⟨_, _, rfl, by decide⟩, by simp [encode, maxWordBytes]⟩

theorem setSent : Statement .setSent := by
  exact fun _ => ⟨⟨_, _, rfl, by decide⟩, by simp [encode, maxWordBytes]⟩

theorem harvest (d : Descriptor) : Statement (.harvest d) := by
  intro h
  have := descriptorBytes_length (d := d) h
  refine ⟨⟨_, _, rfl, by decide⟩, ?_⟩
  simp only [encode, maxWordBytes, List.length_cons]
  omega

theorem encodeRequest (req : Byte) (pl : List Byte) : Statement (.encodeRequest req pl) := by
  intro h
  have hp := payload_le h
  refine ⟨⟨_, _, rfl, by decide⟩, ?_⟩
  simp only [encode, payloadBytes, maxWordBytes, List.length_cons]
  omega

theorem verifyChecksum : Statement .verifyChecksum := by
  exact fun _ => ⟨⟨_, _, rfl, by decide⟩, by simp [encode, maxWordBytes]⟩

theorem decodeFixed : Statement .decodeFixed := by
  exact fun _ => ⟨⟨_, _, rfl, by decide⟩, by simp [encode, maxWordBytes]⟩

theorem decodeArray (rs : Byte) : Statement (.decodeArray rs) := by
  exact fun _ => ⟨⟨_, _, rfl, by decide⟩, by simp [encode, maxWordBytes]⟩

theorem decodeTlv : Statement .decodeTlv := by
  exact fun _ => ⟨⟨_, _, rfl, by decide⟩, by simp [encode, maxWordBytes]⟩

theorem decodeErrcode : Statement .decodeErrcode := by
  exact fun _ => ⟨⟨_, _, rfl, by decide⟩, by simp [encode, maxWordBytes]⟩

theorem frameRequest (req : Byte) (pl : List Byte) : Statement (.frameRequest req pl) := by
  intro h
  have hp := payload_le h
  refine ⟨⟨_, _, rfl, by decide⟩, ?_⟩
  simp only [encode, payloadBytes, maxWordBytes, List.length_cons]
  omega

theorem frameReply (ty : Byte) (ck : Option Half) (pl : List Byte) : Statement (.frameReply ty ck pl) := by
  intro h
  have hp := payload_le h
  refine ⟨⟨_, _, rfl, by decide⟩, ?_⟩
  cases ck <;> simp [encode, ckFieldBytes, payloadBytes, maxWordBytes] <;> omega

theorem syncNock : Statement .syncNock := by
  exact fun _ => ⟨⟨_, _, rfl, by decide⟩, by simp [encode, maxWordBytes]⟩

theorem syncCk : Statement .syncCk := by
  exact fun _ => ⟨⟨_, _, rfl, by decide⟩, by simp [encode, maxWordBytes]⟩

theorem typeError : Statement .typeError := by
  exact fun _ => ⟨⟨_, _, rfl, by decide⟩, by simp [encode, maxWordBytes]⟩

theorem typeGetVersion : Statement .typeGetVersion := by
  exact fun _ => ⟨⟨_, _, rfl, by decide⟩, by simp [encode, maxWordBytes]⟩

theorem typeVersion : Statement .typeVersion := by
  exact fun _ => ⟨⟨_, _, rfl, by decide⟩, by simp [encode, maxWordBytes]⟩

theorem tagVector : Statement .tagVector := by
  exact fun _ => ⟨⟨_, _, rfl, by decide⟩, by simp [encode, maxWordBytes]⟩

theorem tagIntersection : Statement .tagIntersection := by
  exact fun _ => ⟨⟨_, _, rfl, by decide⟩, by simp [encode, maxWordBytes]⟩

theorem tagBarcode : Statement .tagBarcode := by
  exact fun _ => ⟨⟨_, _, rfl, by decide⟩, by simp [encode, maxWordBytes]⟩

theorem dkFixed : Statement .dkFixed := by
  exact fun _ => ⟨⟨_, _, rfl, by decide⟩, by simp [encode, maxWordBytes]⟩

theorem dkArray (rs : Byte) : Statement (.dkArray rs) := by
  exact fun _ => ⟨⟨_, _, rfl, by decide⟩, by simp [encode, maxWordBytes]⟩

theorem dkTlv : Statement .dkTlv := by
  exact fun _ => ⟨⟨_, _, rfl, by decide⟩, by simp [encode, maxWordBytes]⟩

theorem reservedDk3 : Statement .reservedDk3 := by
  exact fun _ => ⟨⟨_, _, rfl, by decide⟩, by simp [encode, maxWordBytes]⟩

theorem ok (d : Descriptor) : Statement (.ok d) := by
  intro h
  have := descriptorBytes_length (d := d) h
  refine ⟨⟨_, _, rfl, by decide⟩, ?_⟩
  simp only [encode, maxWordBytes, List.length_cons]
  omega

theorem busy (d : Descriptor) : Statement (.busy d) := by
  intro h
  have := descriptorBytes_length (d := d) h
  refine ⟨⟨_, _, rfl, by decide⟩, ?_⟩
  simp only [encode, maxWordBytes, List.length_cons]
  omega

theorem badChecksum (d : Descriptor) : Statement (.badChecksum d) := by
  intro h
  have := descriptorBytes_length (d := d) h
  refine ⟨⟨_, _, rfl, by decide⟩, ?_⟩
  simp only [encode, maxWordBytes, List.length_cons]
  omega

theorem typeErrorResult (d : Descriptor) : Statement (.typeErrorResult d) := by
  intro h
  have := descriptorBytes_length (d := d) h
  refine ⟨⟨_, _, rfl, by decide⟩, ?_⟩
  simp only [encode, maxWordBytes, List.length_cons]
  omega

theorem sensorError (d : Descriptor) : Statement (.sensorError d) := by
  intro h
  have := descriptorBytes_length (d := d) h
  refine ⟨⟨_, _, rfl, by decide⟩, ?_⟩
  simp only [encode, maxWordBytes, List.length_cons]
  omega

theorem faultResult (d : Descriptor) : Statement (.faultResult d) := by
  intro h
  have := descriptorBytes_length (d := d) h
  refine ⟨⟨_, _, rfl, by decide⟩, ?_⟩
  simp only [encode, maxWordBytes, List.length_cons]
  omega

theorem timeout : Statement .timeout := by
  exact fun _ => ⟨⟨_, _, rfl, by decide⟩, by simp [encode, maxWordBytes]⟩

theorem reservedResult7 : Statement .reservedResult7 := by
  exact fun _ => ⟨⟨_, _, rfl, by decide⟩, by simp [encode, maxWordBytes]⟩

theorem stIdle : Statement .stIdle := by
  exact fun _ => ⟨⟨_, _, rfl, by decide⟩, by simp [encode, maxWordBytes]⟩

theorem stSent : Statement .stSent := by
  exact fun _ => ⟨⟨_, _, rfl, by decide⟩, by simp [encode, maxWordBytes]⟩

theorem stReceivingHeader : Statement .stReceivingHeader := by
  exact fun _ => ⟨⟨_, _, rfl, by decide⟩, by simp [encode, maxWordBytes]⟩

theorem stReceivingPayload : Statement .stReceivingPayload := by
  exact fun _ => ⟨⟨_, _, rfl, by decide⟩, by simp [encode, maxWordBytes]⟩

theorem stComplete : Statement .stComplete := by
  exact fun _ => ⟨⟨_, _, rfl, by decide⟩, by simp [encode, maxWordBytes]⟩

end Sys2Proof.Laws.WordShape
end

