-- ==== Sys2Proof/Laws/Step.lean ====
section
/-! SUPPORT. Everything a step can do: one instruction on a state whose environment side moved, that move alone, or nothing. -/

namespace Sys2Proof.Machine

/-- If a step answers `t`, it ran one instruction on the state less its held event, less its offered word, or as it is
(SET_SENT); or it put an offered event on hold; or it waited for events. -/
theorem step_cases {s t : State} (h : step s = .next t) :
    (∃ i input held, exec i { s with input := input, held := held } = .next t) ∨
    (∃ input held, t = { s with input := input, held := held }) := by
  unfold step select at h
  split at h
  · rename_i i u hsel
    refine .inl ?_
    split at hsel
    · rename_i j rest hj
      cases hsel
      exact ⟨_, s.input, rest, h⟩
    · split at hsel
      · split at hsel
        · cases hsel; exact ⟨_, s.input, s.held, h⟩
        · cases hsel
      · rename_i w ws hin
        split at hsel
        · cases hsel
        · split at hsel
          · cases hsel
          · cases hsel; exact ⟨_, ws, s.held, h⟩
  · rename_i u hsel
    refine .inr ?_
    split at hsel
    · cases hsel
    · split at hsel
      · split at hsel <;> cases hsel
      · rename_i w ws hin
        split at hsel
        · cases hsel
        · split at hsel
          · cases hsel; cases h; exact ⟨ws, _, rfl⟩
          · cases hsel
  · cases h; exact .inr ⟨s.input, s.held, rfl⟩
  · cases h

end Sys2Proof.Machine
end

