-- ==== Sys2Proof/Tests/Slice0.lean ====
section
/-! SUPPORT. The model's own tests: ill-formed terms, words written out from 30_encoding.md R91 to R93, the vectors of
95_test_vectors.md (each named by its id) as single steps, and a witness for every statement that has hypotheses. -/

namespace Sys2Proof.Tests

open Sys2Proof.Machine

/-! ### Helpers -/

/-- The next state of an outcome. -/
def nextOf (o : Host.Outcome State Fault Refusal) : Option State :=
  match o with
  | .next t => some t
  | .fault _ => none
  | .refused _ => none

/-- The refusal of an outcome. -/
def refusalOf (o : Host.Outcome State Fault Refusal) : Option Refusal :=
  match o with
  | .next _ => none
  | .fault _ => none
  | .refused r => some r

/-- Profile P after power-on (95_test_vectors.md section 1). -/
def z : State := State.powerOn Config.profileP

/-- Bytes stored from index `i` on. -/
def cellsFrom : Nat → List Byte → List Host.Cell
  | _, [] => []
  | i, b :: bs => (i, b) :: cellsFrom (i + 1) bs

/-- `Z` with the given state and these bytes received. -/
def received (t : TState) (bs : List Byte) : State :=
  { z with st := t, buf := cellsFrom 0 bs, wc := bs.length }

/-- The state after `START GV` and a whole frame `AF C1 ty n lo hi payload` (`C(frame)` of section 3.3). -/
def doneCk (ty lo hi : Byte) (pl : List Byte) : State :=
  { received .complete ([0xAF, 0xC1, ty, BitVec.ofNat 8 pl.length, lo, hi] ++ pl) with
    dc := 6, ck := true, plen := BitVec.ofNat 8 pl.length }

/-- The same for a frame `AE C1 ty n payload`. -/
def doneNock (ty : Byte) (pl : List Byte) : State :=
  { received .complete ([0xAE, 0xC1, ty, BitVec.ofNat 8 pl.length] ++ pl) with
    dc := 4, plen := BitVec.ofNat 8 pl.length }

/-- `GV` of section 1. -/
def gv : Descriptor := { req := 0x0E, pl := [], exp := 0x0F, dk := .fixed }

/-- The request frame of `GV`. -/
def gvFrame : List Byte := [0xAE, 0xC1, 0x0E, 0x00]

/-- The 13 payload bytes of L1-6. -/
def version : List Byte := [1, 2, 3, 4, 5, 6, 7, 8, 9, 10, 11, 12, 13]

/-- What a run's last output is. -/
def lastOut (o : Host.Outcome State Fault Refusal) : Option Output :=
  (nextOf o).bind fun t => t.outs.getLast?

/-- What a run's last function value is. -/
def lastValue (o : Host.Outcome State Fault Refusal) : Option FnValue :=
  (nextOf o).bind fun t => t.evals.getLast?

/-! ### Ill-formed terms: one for each check -/

theorem test_wf_descriptor_payload :
    Instr.wf (.poll { req := 1, pl := List.replicate 256 0, exp := 1, dk := .fixed }) = false := by
  decide +kernel

theorem test_wf_descriptor_array_zero :
    Instr.wf (.poll { req := 1, pl := [], exp := 1, dk := .array 0 }) = false := by decide

theorem test_wf_result_descriptor :
    Instr.wf (.ok { req := 1, pl := [], exp := 1, dk := .array 0 }) = false := by decide

theorem test_wf_request_payload : Instr.wf (.frameRequest 1 (List.replicate 256 0)) = false := by
  decide +kernel

theorem test_wf_reply_payload : Instr.wf (.frameReply 1 none (List.replicate 256 0)) = false := by
  decide +kernel

theorem test_wf_record_size : Instr.wf (.decodeArray 0) = false ∧ Instr.wf (.dkArray 0) = false := by decide

theorem test_wf_good :
    Instr.wf (.poll { req := 1, pl := List.replicate 255 0, exp := 1, dk := .array 1 }) = true := by
  decide +kernel

theorem test_wf_cfg_good : Cfg.wf Config.profileP = true := by decide

theorem test_wf_cfg_sync : Cfg.wf { Config.profileP with syncCk := 0xC1AE } = false := by decide

theorem test_wf_cfg_elem_vector :
    Cfg.wf { Config.profileP with elemVector := 3 } = false ∧
    Cfg.wf { Config.profileP with elemVector := 7 } = false := by decide

theorem test_wf_cfg_elem_barcode :
    Cfg.wf { Config.profileP with elemBarcode := 2 } = false ∧
    Cfg.wf { Config.profileP with elemBarcode := 5 } = false := by decide

theorem test_wf_cfg_elem_intersection : Cfg.wf { Config.profileP with elemIntersection := 0 } = false := by decide

theorem test_wf_cfg_tags :
    Cfg.wf { Config.profileP with tagVector := 2 } = false ∧
    Cfg.wf { Config.profileP with tagVector := 4 } = false ∧
    Cfg.wf { Config.profileP with tagIntersection := 4 } = false := by decide

/-! ### Words, from R91, R92, R93; the rows that are not events by log entry 6 -/

theorem test_decode_rx : decodeWord [0x00, 0xAF] = .ok (.rx 0xAF) := by rfl
theorem test_decode_txack : decodeWord [0x01] = .ok .txack := by rfl
theorem test_decode_poll :
    decodeWord [0x02, 0x0E, 0x0F, 0x00, 0x00, 0x00] = .ok (.poll gv) := by rfl
theorem test_decode_poll_array :
    decodeWord [0x02, 0x20, 0x21, 0x01, 0x0E, 0x02, 0x00, 0xFF, 0x02]
      = .ok (.poll { req := 0x20, pl := [0xFF, 0x02], exp := 0x21, dk := .array 14 }) := by rfl
theorem test_decode_poll_tlv :
    decodeWord [0x02, 0x30, 0x31, 0x02, 0x02, 0x00, 0x01, 0x07]
      = .ok (.poll { req := 0x30, pl := [0x01, 0x07], exp := 0x31, dk := .tlv }) := by rfl
theorem test_decode_reset : decodeWord [0x03] = .ok .reset := by rfl
theorem test_decode_view : decodeWord [0x04, 0x12] = .ok (.view 18) := by rfl
theorem test_decode_status : decodeWord [0x05] = .ok .status := by rfl
theorem test_decode_reserved : decodeWord [0x06] = .ok .reservedEvent6 ∧ decodeWord [0x07] = .ok .reservedEvent7 := by
  exact ⟨rfl, rfl⟩

/-- R92, R93: kind code 3, `ARRAY(0)` and a payload of 256 bytes are no descriptors. -/
theorem test_decode_bad_descriptor :
    decodeWord [0x02, 1, 1, 0x03] = .error .badDescriptor ∧
    decodeWord [0x02, 1, 1, 0x01, 0x00, 0, 0] = .error .badDescriptor ∧
    decodeWord [0x02, 1, 1, 0x00, 0x00, 0x01] = .error .badDescriptor := by
  exact ⟨rfl, rfl, rfl⟩

/-- A word that ends before its operands do. -/
theorem test_decode_truncated :
    decodeWord [] = .error .truncated ∧ decodeWord [0x00] = .error .truncated ∧
    decodeWord [0x02, 1, 1, 0x00, 0x01, 0x00] = .error .truncated := by
  exact ⟨rfl, rfl, rfl⟩

theorem test_decode_unassigned :
    decodeWord [0x40] = .error (.unassigned 0x40) ∧ decodeWord [0x3D] = .error (.unassigned 0x3D) := by
  exact ⟨rfl, rfl⟩

theorem test_decode_internal_rows :
    decodeWord [0x08, 0x0E, 0x0F, 0x00, 0x00, 0x00] = .ok (.startReset gv) ∧ decodeWord [0x09] = .ok .txByte ∧
    decodeWord [0x0A] = .ok .setSent ∧ decodeWord [0x0B, 0x0E, 0x0F, 0x00, 0x00, 0x00] = .ok (.harvest gv) := by
  exact ⟨rfl, rfl, rfl, rfl⟩

theorem test_decode_function_rows :
    decodeWord [0x10, 0x12, 0x01, 0x00, 0xAA] = .ok (.encodeRequest 0x12 [0xAA]) ∧
    decodeWord [0x11] = .ok .verifyChecksum ∧ decodeWord [0x12] = .ok .decodeFixed ∧
    decodeWord [0x13, 0x0E] = .ok (.decodeArray 14) ∧ decodeWord [0x14] = .ok .decodeTlv ∧
    decodeWord [0x15] = .ok .decodeErrcode ∧ decodeWord [0x13, 0x00] = .error .badDescriptor := by
  exact ⟨rfl, rfl, rfl, rfl, rfl, rfl, rfl⟩

theorem test_decode_wire_rows :
    decodeWord [0x18, 0x12, 0x01, 0x00, 0xAA] = .ok (.frameRequest 0x12 [0xAA]) ∧
    decodeWord [0x19, 0x0F, 0x01, 0x5B, 0x00, 0x01, 0x00, 0xAA] = .ok (.frameReply 0x0F (some 0x005B) [0xAA]) ∧
    decodeWord [0x19, 0x0F, 0x00, 0x00, 0x00] = .ok (.frameReply 0x0F none []) ∧
    decodeWord [0x19, 0x0F, 0x02] = .error .badFrame ∧
    decodeWord [0x1A] = .ok .syncNock ∧ decodeWord [0x1B] = .ok .syncCk := by
  exact ⟨rfl, rfl, rfl, rfl, rfl, rfl⟩

/-- The words of TYPE_GET_VERSION and TYPE_VERSION are the bytes of R8. -/
theorem test_decode_wire_bytes :
    decodeWord [0x20] = .ok .typeError ∧ decodeWord [14] = .ok .typeGetVersion ∧
    decodeWord [15] = .ok .typeVersion ∧ decodeWord [0x23] = .ok .tagVector ∧
    decodeWord [0x24] = .ok .tagIntersection ∧ decodeWord [0x25] = .ok .tagBarcode := by
  exact ⟨rfl, rfl, rfl, rfl, rfl, rfl⟩

theorem test_decode_kind_rows :
    decodeWord [0x28] = .ok .dkFixed ∧ decodeWord [0x29, 0x0E] = .ok (.dkArray 14) ∧
    decodeWord [0x2A] = .ok .dkTlv ∧ decodeWord [0x2B] = .ok .reservedDk3 := by
  exact ⟨rfl, rfl, rfl, rfl⟩

theorem test_decode_result_rows :
    decodeWord [0x30, 0x0E, 0x0F, 0x00, 0x00, 0x00] = .ok (.ok gv) ∧
    decodeWord [0x31, 0x0E, 0x0F, 0x00, 0x00, 0x00] = .ok (.busy gv) ∧
    decodeWord [0x32, 0x0E, 0x0F, 0x00, 0x00, 0x00] = .ok (.badChecksum gv) ∧
    decodeWord [0x33, 0x0E, 0x0F, 0x00, 0x00, 0x00] = .ok (.typeErrorResult gv) ∧
    decodeWord [0x34, 0x0E, 0x0F, 0x00, 0x00, 0x00] = .ok (.sensorError gv) ∧
    decodeWord [0x35, 0x0E, 0x0F, 0x00, 0x00, 0x00] = .ok (.faultResult gv) ∧
    decodeWord [0x36] = .ok .timeout ∧ decodeWord [0x37] = .ok .reservedResult7 := by
  exact ⟨rfl, rfl, rfl, rfl, rfl, rfl, rfl, rfl⟩

theorem test_decode_status_rows :
    decodeWord [0x38] = .ok .stIdle ∧ decodeWord [0x39] = .ok .stSent ∧
    decodeWord [0x3A] = .ok .stReceivingHeader ∧ decodeWord [0x3B] = .ok .stReceivingPayload ∧
    decodeWord [0x3C] = .ok .stComplete := by
  exact ⟨rfl, rfl, rfl, rfl, rfl⟩

/-- The table's words for the event rows (match and mask 0x7), operands zero. -/
theorem test_table_words :
    decodeTableWord 8 0 = some (.rx 0) ∧ decodeTableWord 16 0xAF00 = some (.rx 0xAF) ∧
    decodeTableWord 8 1 = some .txack ∧
    decodeTableWord 8 2 = some (.poll { req := 0, pl := [], exp := 0, dk := .fixed }) ∧
    decodeTableWord 8 3 = some .reset ∧ decodeTableWord 8 4 = some (.view 0) ∧
    decodeTableWord 8 5 = some .status ∧ decodeTableWord 8 0x0E = some .typeGetVersion := by
  exact ⟨rfl, rfl, rfl, rfl, rfl, rfl, rfl, rfl⟩

/-- The placed word is the next to run from reset: `STATUS` answers `{0, 0}` (L2-RS-6). -/
theorem test_fetch_status :
    lastOut (step (State.reset.withFetchWord 8 5)) = some (.status 0 false) := by decide

/-- The placed word runs before a held poll that has become enabled. -/
theorem test_fetch_before_held :
    lastOut (step ({ z with held := [.poll gv] }.withFetchWord 8 5)) = some (.status 0 false) := by decide

/-! ### The events -/

/-- L2-RX-3, its last byte. -/
theorem test_rx_sync :
    (nextOf (exec (.rx 0xC1) (received .sent [0xAE, 0xAE]))).map (fun t => (t.st, t.wc, t.hc, t.ck, t.dc))
      = some (.receivingHeader, 3, 1, false, 5) := by decide

/-- R118, the byte `00` at index 6: the header's end with `hc = 1`. -/
theorem test_rx_header_end :
    (nextOf (exec (.rx 0x00)
      { received .receivingHeader [0x55, 0xAF, 0xC1, 0x0F, 0x02, 0x03] with hc := 1, dc := 7, ck := true })).map
      (fun t => (t.st, t.wc, t.plen)) = some (.receivingPayload, 7, 2) := by decide

/-- R154's example. -/
theorem test_txack :
    (nextOf (exec .txack { z with dph := .tx gvFrame 0 })).map (fun t => (t.outs, t.dph))
      = some ([.tx 0xAE], .tx gvFrame 1) := by decide

/-- L2-DP-1. -/
theorem test_poll_starts :
    (nextOf (exec (.poll gv) { z with wc := 21 })).map (fun t => (t.st, t.wc, t.dph, t.outs))
      = some (.idle, 0, .tx gvFrame 0, []) := by decide

/-- L2-DP-8: the checksum test comes before the type tests. -/
theorem test_poll_bad_checksum :
    lastOut (exec (.poll gv) (doneCk 0x21 0 0 [1, 2])) = some (.result .badChecksum) := by decide

/-- L2-RS-2. -/
theorem test_reset :
    (nextOf (exec .reset { z with wc := 256, fault := true, buf := [(0, 0x5A)] })).map
      (fun t => (t.fault, t.wc, t.buf)) = some (false, 0, [(0, 0x5A)]) := by decide

/-- L3-1, event 29. -/
theorem test_view : lastOut (exec (.view 18) (doneCk 0x0F 0x5B 0 version)) = some (.viewByte 0x0D) := by decide

/-- L2-PT-2. -/
theorem test_status :
    lastOut (exec .status { z with wc := 256, fault := true }) = some (.status 0 true) := by decide

/-- R91: codes 6 and 7. -/
theorem test_reserved_events :
    refusalOf (exec .reservedEvent6 z) = some (.notAnEvent 6) ∧
    refusalOf (exec .reservedEvent7 z) = some (.notAnEvent 7) := by decide

/-- L2-DP-12: refused also in `Sent`. -/
theorem test_poll_bad_descriptor :
    refusalOf (exec (.poll { gv with dk := .array 0 }) { z with st := .sent }) = some .badDescriptor := by decide

/-! ### The internal steps -/

/-- R153's example. -/
theorem test_startReset :
    (nextOf (exec (.startReset gv) { z with wc := 21, hc := 3, plen := 9 })).map
      (fun t => (t.wc, t.dph, t.hc, t.plen)) = some (0, .tx gvFrame 0, 3, 9) := by decide

/-- The last byte of a frame; then none is on offer (R154). -/
theorem test_txByte :
    (nextOf (exec .txByte { z with dph := .tx gvFrame 3 })).map (fun t => (t.outs, t.dph))
      = some ([.tx 0x00], .tx gvFrame 4) ∧
    nextOf (exec .txByte { z with dph := .tx gvFrame 4 }) = some { z with dph := .tx gvFrame 4 } := by decide

/-- R155's example. -/
theorem test_setSent :
    (nextOf (exec .setSent { z with dph := .tx gvFrame 4 })).map (fun t => (t.st, t.dph, t.outs))
      = some (.sent, .ready, [.result .busy]) := by decide

/-- L2-DP-15, its last step. -/
theorem test_setSent_faulted :
    lastOut (exec .setSent { z with dph := .tx gvFrame 4, wc := 256, fault := true })
      = some (.result .fault) := by decide

/-- L2-DP-9: the expected type is tested before the error type. -/
theorem test_harvest :
    lastOut (exec (.harvest { gv with exp := 0x03 }) (doneCk 0x03 0x02 0x00 [2, 0, 0, 0]))
      = some (.result (.ok (.fixed { kind := .fixed, offset := 6, count := 1, len := 4 }))) := by decide

/-! ### The functions -/

/-- L2-CK-2. -/
theorem test_encodeRequest :
    lastValue (exec (.encodeRequest 0x12 [0x10, 0x20, 0x30, 0x40]) z)
      = some (.frame [0xAE, 0xC1, 0x12, 0x04, 0x10, 0x20, 0x30, 0x40]) := by decide

/-- L2-CK-4 and L2-CK-5. -/
theorem test_verifyChecksum :
    lastValue (exec .verifyChecksum (doneCk 0x0F 0x5B 0 version)) = some (.check true) ∧
    lastValue (exec .verifyChecksum (doneCk 0x0F 0x5C 0 version)) = some (.check false) := by decide

/-- L2-CK-10: the field's high byte counts. -/
theorem test_verifyChecksum_high :
    lastValue (exec .verifyChecksum (doneCk 0x0F 0x03 0x01 [1, 2])) = some (.check false) := by decide

/-- R181's example. -/
theorem test_decodeFixed :
    lastValue (exec .decodeFixed { z with dc := 6, plen := 13 })
      = some (.decoded (.fixed { kind := .fixed, offset := 6, count := 1, len := 13 })) := by decide

/-- L2-DC-2b and L2-DC-2c. -/
theorem test_decodeArray :
    lastValue (exec (.decodeArray 14) { z with dc := 4, plen := 30 })
      = some (.decoded (.array { kind := .array, offset := 4, count := 2, len := 28 })) ∧
    lastValue (exec (.decodeArray 14) { z with dc := 4, plen := 10 })
      = some (.decoded (.array { kind := .array, offset := 4, count := 0, len := 0 })) := by decide

/-- L2-DC-3 (R195, the source's multi-record case). -/
theorem test_decodeTlv :
    lastValue (exec .decodeTlv (doneNock 0x31 [1, 6, 0xA0, 0xA1, 0xA2, 0xA3, 0xA4, 0xA5, 4, 4, 0xB0, 0xB1, 0xB2, 0xB3]))
      = some (.decoded (.tlv 0b101 (some { kind := .vector, offset := 6, count := 1, len := 6 }) none
          (some { kind := .barcode, offset := 14, count := 1, len := 4 }))) := by decide

/-- L2-DC-10b: the second record runs past the payload's end. -/
theorem test_decodeTlv_truncated :
    lastValue (exec .decodeTlv (doneNock 0x31 [4, 4, 0xB0, 0xB1, 0xB2, 0xB3, 1, 3, 0xC0, 0xC1]))
      = some (.decoded (.tlv 0b100 none none
          (some { kind := .barcode, offset := 6, count := 1, len := 4 }))) := by decide

/-- L2-DC-11 and L2-DC-13: raw, and two bytes after the payload. -/
theorem test_decodeErrcode :
    lastValue (exec .decodeErrcode (doneNock 0x03 [0xFE, 0xFF, 0xFF, 0xFF])) = some (.code 0xFFFFFFFE) ∧
    lastValue (exec .decodeErrcode { received .complete [0xAE, 0xC1, 0x03, 0x02, 0x05, 0x00, 0x11, 0x22] with
      dc := 4, plen := 2 }) = some (.code 0x22110005) := by decide

/-! ### The wire rows -/

/-- R168: `GV` goes out as `AE C1 0E 00` and returns `BUSY`. -/
theorem test_frameRequest :
    (nextOf (exec (.frameRequest 0x0E []) z)).map (fun t => (t.st, t.outs))
      = some (.sent, [.tx 0xAE, .tx 0xC1, .tx 0x0E, .tx 0x00, .result .busy]) := by decide

/-- L2-RX-11: payload bytes equal to a sync word. -/
theorem test_frameReply :
    (nextOf (exec (.frameReply 0x0F none [0xAE, 0xC1]) { z with st := .sent })).map
      (fun t => (t.st, t.wc, t.dc, t.plen)) = some (.complete, 6, 4, 2) := by decide

/-- L2-RX-6: length 0 with a checksum field. -/
theorem test_frameReply_empty :
    (nextOf (exec (.frameReply 0x01 (some 0) []) { z with st := .sent })).map
      (fun t => (t.st, t.wc, t.hc, t.ck, t.dc, t.plen)) = some (.idle, 6, 0, true, 6, 0) := by decide

/-- L2-RX-1. -/
theorem test_syncNock :
    (nextOf (exec .syncNock { z with st := .sent })).map (fun t => (t.st, t.wc, t.hc, t.ck, t.dc))
      = some (.receivingHeader, 2, 0, false, 4) := by decide

/-- L2-RX-2: behind one byte of noise. -/
theorem test_syncCk :
    (nextOf (exec .syncCk (received .sent [0x55]))).map (fun t => (t.st, t.wc, t.hc, t.ck, t.dc))
      = some (.receivingHeader, 3, 1, true, 7) := by decide

/-! L2-RX-7 with each wire byte: stored at index 5 in `Idle`. -/

theorem test_typeError :
    (nextOf (exec .typeError { z with wc := 5 })).map (fun t => (t.wc, t.buf)) = some (6, [(5, 3)]) := by decide

theorem test_typeGetVersion :
    (nextOf (exec .typeGetVersion { z with wc := 5 })).map (fun t => (t.wc, t.buf)) = some (6, [(5, 14)]) := by decide

theorem test_typeVersion :
    (nextOf (exec .typeVersion { z with wc := 5 })).map (fun t => (t.wc, t.buf)) = some (6, [(5, 15)]) := by decide

theorem test_tagVector :
    (nextOf (exec .tagVector { z with wc := 5 })).map (fun t => (t.wc, t.buf)) = some (6, [(5, 1)]) := by decide

theorem test_tagIntersection :
    (nextOf (exec .tagIntersection { z with wc := 5 })).map (fun t => (t.wc, t.buf)) = some (6, [(5, 2)]) := by decide

theorem test_tagBarcode :
    (nextOf (exec .tagBarcode { z with wc := 5 })).map (fun t => (t.wc, t.buf)) = some (6, [(5, 4)]) := by decide

/-! ### The decoder kinds -/

theorem test_dkFixed :
    lastValue (exec .dkFixed { z with dc := 6, plen := 13 })
      = some (.decoded (.fixed { kind := .fixed, offset := 6, count := 1, len := 13 })) := by decide

/-- L2-DC-2d. -/
theorem test_dkArray :
    lastValue (exec (.dkArray 1) { z with dc := 4, plen := 5 })
      = some (.decoded (.array { kind := .array, offset := 4, count := 5, len := 5 })) := by decide

/-- L2-DC-5 (an unknown tag) and L2-DC-9 (a repeated kind), in one payload each. -/
theorem test_dkTlv :
    lastValue (exec .dkTlv (doneNock 0x31 [9, 2, 0xEE, 0xEE, 1, 6, 0, 0, 0, 0, 0, 0]))
      = some (.decoded (.tlv 0b001 (some { kind := .vector, offset := 10, count := 1, len := 6 }) none none)) ∧
    lastValue (exec .dkTlv (doneNock 0x31
      [1, 6, 0, 0, 0, 0, 0, 0, 1, 12, 0, 0, 0, 0, 0, 0, 0, 0, 0, 0, 0, 0]))
      = some (.decoded (.tlv 0b001 (some { kind := .vector, offset := 14, count := 2, len := 12 }) none none)) := by
  decide

/-- R183 run on its own with `dc + plen > CAP` (log entry 8): the walk that breaks inside the buffer answers, also with its last
record ending at index 256; the walk that comes to a prefix at 256 stops. -/
theorem test_dkTlv_pastTheBuffer :
    lastValue (exec .dkTlv { z with st := .receivingPayload, dc := 10, plen := 250, buf := cellsFrom 10 [1, 255] })
      = some (.decoded (.tlv 0b000 none none none)) ∧
    lastValue (exec .dkTlv { z with st := .receivingPayload, dc := 254, plen := 3, buf := cellsFrom 254 [1, 0] })
      = some (.decoded (.tlv 0b001 (some { kind := .vector, offset := 256, count := 0, len := 0 }) none none)) ∧
    exec .dkTlv { z with st := .receivingPayload, dc := 254, plen := 4, buf := cellsFrom 254 [1, 0] }
      = .fault (.bufferIndex 258) :=
  ⟨by decide, by decide, rfl⟩

theorem test_reservedDk3 : refusalOf (exec .reservedDk3 z) = some .reservedDecoderKind := by decide

/-! ### The results -/

/-- L2-DP-10. -/
theorem test_ok :
    (nextOf (exec (.ok gv) (doneNock 0x0F [9, 9, 9]))).map (fun t => (t.st, t.outs))
      = some (.idle, [.result (.ok (.fixed { kind := .fixed, offset := 4, count := 1, len := 3 }))]) := by decide

/-- L2-DP-3; and no step where a poll would not return `BUSY`. -/
theorem test_busy :
    (nextOf (exec (.busy gv) { z with st := .sent })).map (fun t => (t.st, t.outs))
      = some (.sent, [.result .busy]) ∧
    nextOf (exec (.busy gv) (doneNock 0x0F [9])) = some (doneNock 0x0F [9]) := by decide

/-- L3-3, event 26. -/
theorem test_badChecksum :
    (nextOf (exec (.badChecksum gv) (doneCk 0x0F 0x5C 0 version))).map (fun t => (t.st, t.outs))
      = some (.idle, [.result .badChecksum]) := by decide

/-- L2-DP-7. -/
theorem test_typeErrorResult :
    (nextOf (exec (.typeErrorResult gv) (doneCk 0x21 3 0 [1, 2]))).map (fun t => (t.st, t.outs))
      = some (.idle, [.result .typeError]) := by decide

/-- L2-DP-6. -/
theorem test_sensorError :
    (nextOf (exec (.sensorError gv) (doneCk 0x03 0x02 0x00 [2, 0, 0, 0]))).map (fun t => (t.st, t.outs))
      = some (.idle, [.result (.sensorError 2)]) := by decide

/-- L2-DP-11: the frame is not harvested. -/
theorem test_faultResult :
    (nextOf (exec (.faultResult gv) { doneNock 0x0F [9] with fault := true })).map (fun t => (t.st, t.outs))
      = some (.complete, [.result .fault]) := by decide

theorem test_reserved_results :
    refusalOf (exec .timeout z) = some .neverProduced ∧
    refusalOf (exec .reservedResult7 z) = some .unusedResultCode := by decide

/-! ### The status codes (R21) -/

theorem test_status_codes :
    lastOut (exec .stIdle z) = some (.status 0 false) ∧
    lastOut (exec .stSent { z with st := .sent }) = some (.status 1 false) ∧
    lastOut (exec .stReceivingHeader { z with st := .receivingHeader }) = some (.status 2 false) ∧
    lastOut (exec .stReceivingPayload { z with st := .receivingPayload }) = some (.status 3 false) ∧
    lastOut (exec .stComplete { z with st := .complete }) = some (.status 4 false) ∧
    lastOut (exec .stComplete z) = none := by decide

/-! ### The step -/

/-- L2-DP-14 and R156: the poll is held, and runs when the start is over. -/
theorem test_step_holds_poll :
    (nextOf (step { z with dph := .tx gvFrame 0, input := [[0x02, 0x0E, 0x0F, 0x00, 0x00, 0x00]] })).map
      (fun t => (t.held, t.input, t.outs)) = some ([.poll gv], [], []) ∧
    (nextOf (step { z with st := .sent, held := [.poll gv] })).map (fun t => (t.held, t.outs))
      = some ([], [.result .busy]) := by decide

/-- R155: SET_SENT is the dispatcher's own step when nothing is offered. -/
theorem test_step_setSent :
    (nextOf (step { z with dph := .tx gvFrame 4 })).map (fun t => (t.st, t.outs))
      = some (.sent, [.result .busy]) := by decide

theorem test_step_refuses :
    refusalOf (step { z with input := [[0x3F]] }) = some (.undecodable (.unassigned 0x3F)) := by decide

/-! ### Witnesses: for every statement with hypotheses, a state and operands that meet them -/

/-- The invariant of a state with the dispatcher ready, from conditions that can be decided on a concrete state. -/
theorem inv_of (s : State) (hd : s.dph = .ready)
    (h : (s.cfg.wf = true ∧ Memory.wf s.buf = true ∧ s.wc ≤ CAP ∧ s.hc ≤ 254 ∧ s.dc ≤ 260) ∧
      (∀ i, i < s.wc → (Memory.read s.buf i).isSome = true))
    (hh : s.st = .receivingHeader → s.hc + 2 ≤ s.wc ∧ s.wc < s.dc)
    (hp : s.st = .receivingPayload → s.hc < s.dc ∧ s.dc ≤ s.wc ∧ s.wc < frameEnd s)
    (hc : s.st = .complete → s.hc < s.dc ∧ s.dc < frameEnd s ∧ frameEnd s ≤ s.wc)
    (hf : s.st = .receivingHeader ∨ s.st = .receivingPayload ∨ s.st = .complete →
      s.dc = s.hc + headerSize s.ck ∧
        le16 (cell s s.hc) (cell s (s.hc + 1)) = if s.ck then s.cfg.syncCk else s.cfg.syncNock)
    (hl : s.st = .receivingPayload ∨ s.st = .complete → s.plen = lengthByte s ∧ s.plen ≠ 0) : Inv s where
  cfg_wf := h.1.1
  buf_wf := h.1.2.1
  wc_le := h.1.2.2.1
  hc_le := h.1.2.2.2.1
  dc_le := h.1.2.2.2.2
  written := h.2
  starting := fun f i e => by rw [hd] at e; cases e
  header := fun e => ⟨(hh e).1, (hh e).2, hf (.inl e)⟩
  payload := fun e => ⟨(hp e).1, (hp e).2.1, (hp e).2.2, hf (.inr (.inl e)), hl (.inl e)⟩
  complete := fun e => ⟨(hc e).1, (hc e).2.1, (hc e).2.2, hf (.inr (.inr e)), hl (.inr e)⟩

/-- A frame with a good checksum, received whole. -/
def good : State := doneCk 0x0F 0x03 0x00 [1, 2]

theorem inv_good : Inv good :=
  inv_of good rfl (by decide) (by decide) (by decide) (by decide) (by decide) (by decide)

/-- A frame with a bad checksum. -/
def bad : State := doneCk 0x0F 0x04 0x00 [1, 2]

theorem inv_bad : Inv bad :=
  inv_of bad rfl (by decide) (by decide) (by decide) (by decide) (by decide) (by decide)

/-- An error reply without a checksum field. -/
def errorReply : State := doneNock 0x03 [2, 0, 0, 0]

theorem inv_errorReply : Inv errorReply :=
  inv_of errorReply rfl (by decide) (by decide) (by decide) (by decide) (by decide) (by decide)

/-- A reply of a type that `GV` does not expect. -/
def strange : State := doneNock 0x21 [1, 2]

theorem inv_strange : Inv strange :=
  inv_of strange rfl (by decide) (by decide) (by decide) (by decide) (by decide) (by decide)

/-- A header one byte before its end, length byte 2. -/
def inHeader : State := { received .receivingHeader [0xAE, 0xC1, 0x0F] with dc := 4 }

theorem inv_inHeader : Inv inHeader :=
  inv_of inHeader rfl (by decide) (by decide) (by decide) (by decide) (by decide) (by decide)

/-- A payload one byte before its end. -/
def inPayload : State := { received .receivingPayload [0xAE, 0xC1, 0x0F, 0x02, 0x01] with dc := 4, plen := 2 }

theorem inv_inPayload : Inv inPayload :=
  inv_of inPayload rfl (by decide) (by decide) (by decide) (by decide) (by decide) (by decide)

/-- A payload that does not fit the buffer: `dc + plen = 257` (L2-RX-16). -/
def tooLong : State := { received .receivingPayload [0xAE, 0xC1, 0x21, 0xFD] with dc := 4, plen := 0xFD }

theorem inv_tooLong : Inv tooLong :=
  inv_of tooLong rfl (by decide) (by decide) (by decide) (by decide) (by decide) (by decide)

/-- The first sync byte received in `Sent`. -/
def halfSync : State := received .sent [0xAF]

theorem inv_halfSync : Inv halfSync :=
  inv_of halfSync rfl (by decide) (by decide) (by decide) (by decide) (by decide) (by decide)

theorem inv_z : Inv z :=
  inv_of z rfl (by decide) (by decide) (by decide) (by decide) (by decide) (by decide)

/-- A start two bytes under way. -/
theorem inv_starting : Inv { z with dph := .tx gvFrame 2 } where
  cfg_wf := by decide
  buf_wf := by decide
  wc_le := by decide
  hc_le := by decide
  dc_le := by decide
  written := by decide
  starting := fun f i e => by cases e; decide
  header := fun e => by cases e
  payload := fun e => by cases e
  complete := fun e => by cases e

/-- An outcome that has a next state is one. -/
theorem ran {o : Host.Outcome State Fault Refusal} (h : (nextOf o).isSome = true) : ∃ t, o = .next t := by
  cases o with
  | next t => exact ⟨t, rfl⟩
  | fault r => cases h
  | refused r => cases h

/-- The same with what the next state holds. -/
theorem ranTo {o : Host.Outcome State Fault Refusal} {P : State → Bool} (h : (nextOf o).any P = true) :
    ∃ t, o = .next t ∧ P t = true := by
  cases o with
  | next t => exact ⟨t, rfl, h⟩
  | fault r => cases h
  | refused r => cases h

theorem witness_DecodeOfEncode : ∃ i : Instr, i.wf = true :=
  ⟨.poll { req := 1, pl := List.replicate 255 0, exp := 1, dk := .array 255 }, by decide +kernel⟩

theorem witness_EncodeOfDecode : ∃ bs i rest, decode bs = .ok (i, rest) :=
  ⟨[0x00, 0xAF, 0x01], .rx 0xAF, [0x01], rfl⟩

theorem witness_NotAdmitted :
    (∃ d : Descriptor, 255 < d.pl.length) ∧ (∃ d : Descriptor, d.dk = .array 0) ∧
    (∃ pl : List Byte, 255 < pl.length) :=
  ⟨⟨{ gv with pl := List.replicate 256 0 }, by decide +kernel⟩, ⟨{ gv with dk := .array 0 }, rfl⟩,
    ⟨List.replicate 256 0, by decide +kernel⟩⟩

theorem witness_OnlyReserved :
    (∃ i : Instr, i.wf = true ∧ isReserved i = true) ∧ (∃ i : Instr, i.wf = true ∧ isReserved i = false) :=
  ⟨⟨.timeout, by decide⟩, ⟨.rx 0, by decide⟩⟩

theorem witness_Faulted :
    ∃ (i : Instr) (s t : State), s.fault = true ∧ i ≠ .reset ∧ exec i s = .next t := by
  obtain ⟨t, h⟩ := ran (o := exec (.rx 0xC1) { z with fault := true }) (by decide)
  exact ⟨.rx 0xC1, { z with fault := true }, t, rfl, by decide, h⟩

theorem witness_FullBuffer : ∃ s : State, s.fault = false ∧ s.wc = CAP := ⟨{ z with wc := 256 }, by decide⟩

theorem witness_StoredByte :
    (∃ (b : Byte) (s t : State), exec (.rx b) s = .next t ∧ s.fault = false ∧ s.wc < CAP) ∧
    (∃ (b : Byte) (s t : State), exec (.rx b) s = .next t ∧ (s.fault = true ∨ CAP ≤ s.wc)) := by
  obtain ⟨t, h⟩ := ran (o := exec (.rx 7) { z with wc := 255 }) (by decide)
  obtain ⟨u, g⟩ := ran (o := exec (.rx 7) { z with wc := 256 }) (by decide)
  exact ⟨⟨7, { z with wc := 255 }, t, h, by decide⟩, ⟨7, { z with wc := 256 }, u, g, by decide⟩⟩

theorem witness_IdleOrComplete :
    (∃ s : State, s.fault = false ∧ s.wc < CAP ∧ s.st = .idle) ∧
    (∃ (b : Byte) (s t : State), Inv s ∧ s.fault = false ∧ s.wc < CAP ∧ s.st = .complete ∧
      exec (.rx b) s = .next t) := by
  obtain ⟨t, h⟩ := ran (o := exec (.rx 0xAE) good) (by decide)
  exact ⟨⟨{ z with wc := 255 }, by decide⟩, ⟨0xAE, good, t, inv_good, by decide, by decide, by decide, h⟩⟩

/-- The first byte of a transaction; each sync value; no sync. -/
theorem witness_SyncDetection :
    (∃ s : State, s.fault = false ∧ s.wc < CAP ∧ s.st = .sent ∧ s.wc = 0) ∧
    (∃ (b : Byte) (s : State), s.fault = false ∧ s.wc < CAP ∧ s.st = .sent ∧ s.wc = 1 ∧
      le16 (cell s (s.wc - 1)) b = s.cfg.syncCk) ∧
    (∃ (b : Byte) (s : State), s.fault = false ∧ s.wc < CAP ∧ s.st = .sent ∧ s.wc = 255 ∧
      le16 (cell s (s.wc - 1)) b = s.cfg.syncNock) ∧
    (∃ (b : Byte) (s : State), s.fault = false ∧ s.wc < CAP ∧ s.st = .sent ∧ 1 ≤ s.wc ∧
      isSync s.cfg (le16 (cell s (s.wc - 1)) b) = false) :=
  ⟨⟨{ z with st := .sent }, by decide⟩, ⟨0xC1, halfSync, by decide⟩,
    ⟨0xC1, { z with st := .sent, wc := 255, buf := [(254, 0xAE)] }, by decide⟩, ⟨0, halfSync, by decide⟩⟩

/-- A header with a checksum field, one byte before its end. -/
def inHeaderCk : State :=
  { received .receivingHeader [0xAF, 0xC1, 0x0F, 0x02, 0x03] with dc := 6, ck := true }

theorem inv_inHeaderCk : Inv inHeaderCk :=
  inv_of inHeaderCk rfl (by decide) (by decide) (by decide) (by decide) (by decide) (by decide)

/-- A header whose length byte falls on the buffer's last index. -/
def inHeaderLate : State :=
  { received .receivingHeader (List.replicate 252 0 ++ [0xAE, 0xC1, 0x0F]) with hc := 252, dc := 256 }

theorem inv_inHeaderLate : Inv inHeaderLate :=
  inv_of inHeaderLate rfl (by decide +kernel) (by decide +kernel) (by decide +kernel) (by decide +kernel)
    (by decide +kernel) (by decide +kernel)

/-- Before the end; at it with the length byte just stored, and with one stored before; at the end of the buffer. -/
theorem witness_HeaderEnd :
    (∃ s : State, Inv s ∧ s.fault = false ∧ s.wc < CAP ∧ s.st = .receivingHeader ∧ s.wc + 1 < s.dc) ∧
    (∃ s : State, Inv s ∧ s.fault = false ∧ s.wc < CAP ∧ s.st = .receivingHeader ∧ s.wc + 1 = s.dc ∧
      s.hc + 3 = s.wc) ∧
    (∃ s : State, Inv s ∧ s.fault = false ∧ s.wc < CAP ∧ s.st = .receivingHeader ∧ s.wc + 1 = s.dc ∧
      s.hc + 3 < s.wc) ∧
    (∃ s : State, Inv s ∧ s.fault = false ∧ s.wc < CAP ∧ s.st = .receivingHeader ∧ s.wc + 1 = s.dc ∧
      s.hc + 3 = 255) :=
  ⟨⟨{ inHeaderCk with wc := 4 }, inv_of _ rfl (by decide) (by decide) (by decide) (by decide) (by decide) (by decide),
      by decide⟩,
    ⟨inHeader, inv_inHeader, by decide⟩, ⟨inHeaderCk, inv_inHeaderCk, by decide⟩,
    ⟨inHeaderLate, inv_inHeaderLate, by decide +kernel⟩⟩

theorem witness_PayloadEnd :
    (∃ s : State, s.fault = false ∧ s.wc < CAP ∧ s.st = .receivingPayload ∧ s.wc + 1 = s.dc + s.plen.toNat) ∧
    (∃ s : State, s.fault = false ∧ s.wc < CAP ∧ s.st = .receivingPayload ∧ s.wc + 2 = s.dc + s.plen.toNat) :=
  ⟨⟨inPayload, by decide⟩, ⟨{ inPayload with plen := 3 }, by decide⟩⟩

theorem witness_Thresholds :
    (∃ (b : Byte) (s t : State), Inv s ∧ s.fault = false ∧ s.wc < CAP ∧ exec (.rx b) s = .next t ∧
      s.st = .sent ∧ t.st = .receivingHeader) ∧
    (∃ (b : Byte) (s t : State), Inv s ∧ s.fault = false ∧ s.wc < CAP ∧ exec (.rx b) s = .next t ∧
      s.st = .receivingHeader ∧ t.st = .receivingPayload) ∧
    (∃ (b : Byte) (s t : State), Inv s ∧ s.fault = false ∧ s.wc < CAP ∧ exec (.rx b) s = .next t ∧
      s.st = .receivingPayload ∧ t.st = .complete) := by
  obtain ⟨t, h, e⟩ := ranTo (o := exec (.rx 0xC1) halfSync) (P := fun t => decide (t.st = .receivingHeader)) (by decide)
  obtain ⟨u, g, f⟩ := ranTo (o := exec (.rx 2) inHeader) (P := fun t => decide (t.st = .receivingPayload)) (by decide)
  obtain ⟨v, k, l⟩ := ranTo (o := exec (.rx 2) inPayload) (P := fun t => decide (t.st = .complete)) (by decide)
  exact ⟨⟨0xC1, halfSync, t, inv_halfSync, rfl, by decide, h, rfl, of_decide_eq_true e⟩,
    ⟨2, inHeader, u, inv_inHeader, rfl, by decide, g, rfl, of_decide_eq_true f⟩,
    ⟨2, inPayload, v, inv_inPayload, rfl, by decide, k, rfl, of_decide_eq_true l⟩⟩

theorem witness_CompletionPoint :
    (∃ (b : Byte) (s t : State), Inv s ∧ exec (.rx b) s = .next t ∧ s.st ≠ .complete ∧ t.st = .complete) ∧
    (∃ (b : Byte) (s t : State), Inv s ∧ s.st = .receivingPayload ∧ s.dc + s.plen.toNat = CAP + 1 ∧
      exec (.rx b) s = .next t) := by
  obtain ⟨t, h, e⟩ := ranTo (o := exec (.rx 2) inPayload) (P := fun t => decide (t.st = .complete)) (by decide)
  obtain ⟨u, g⟩ := ran (o := exec (.rx 2) tooLong) (by decide)
  exact ⟨⟨2, inPayload, t, inv_inPayload, h, by decide, of_decide_eq_true e⟩,
    ⟨2, tooLong, u, inv_tooLong, rfl, by decide, g⟩⟩

theorem witness_ReplyFrame :
    (∃ (s : State) (ck : Option Half) (pl : List Byte), s.cfg.wf = true ∧ s.fault = false ∧ s.st = .sent ∧
      s.wc = 0 ∧ ck.isSome = true ∧ pl.length = 250) ∧
    (∃ (s : State) (ck : Option Half) (pl : List Byte), s.cfg.wf = true ∧ s.fault = false ∧ s.st = .sent ∧
      s.wc = 0 ∧ ck.isSome = false ∧ pl.length = 252) :=
  ⟨⟨{ z with st := .sent }, some 0, List.replicate 250 0, by decide +kernel⟩,
    ⟨{ z with st := .sent }, none, List.replicate 252 0, by decide +kernel⟩⟩

theorem witness_ZeroLengthReply :
    ∃ s : State, s.cfg.wf = true ∧ s.fault = false ∧ s.st = .sent ∧ s.wc = 0 := ⟨{ z with st := .sent }, by decide⟩

/-- Both clauses at the start of the buffer and at its last two places. -/
theorem witness_SyncWord :
    (∃ s : State, s.cfg.wf = true ∧ s.fault = false ∧ s.wc + 1 < CAP ∧ s.st = .sent ∧ s.wc = 0) ∧
    (∃ s : State, s.cfg.wf = true ∧ s.fault = false ∧ s.wc + 2 = CAP ∧ s.st = .sent ∧
      isSync s.cfg (le16 (cell s (s.wc - 1)) (loByte s.cfg.syncCk)) = false ∧
      isSync s.cfg (le16 (cell s (s.wc - 1)) (loByte s.cfg.syncNock)) = false) :=
  ⟨⟨{ z with st := .sent }, by decide⟩, ⟨{ z with st := .sent, wc := 254, buf := [(253, 0)] }, by decide⟩⟩

theorem witness_WireBytes : ∃ s : State, Inv s ∧ s.fault = false ∧ s.wc < CAP := ⟨halfSync, inv_halfSync, by decide⟩

theorem witness_RequestFrame :
    (∃ pl : List Byte, pl.length = 255 ∧ pl.length ≤ 255) ∧ (∃ pl : List Byte, pl.length = 256 ∧ 255 < pl.length) :=
  ⟨⟨List.replicate 255 0, by decide +kernel⟩, ⟨List.replicate 256 0, by decide +kernel⟩⟩

theorem witness_Checksum :
    (∃ s : State, s.hc + 6 ≤ CAP ∧ s.dc + (cell s (s.hc + 3)).toNat ≤ CAP ∧ (cell s (s.hc + 3)).toNat = 2) ∧
    (∃ s : State, s.hc + 6 = CAP ∧ s.dc + (cell s (s.hc + 3)).toNat = CAP) :=
  ⟨⟨good, by decide⟩, ⟨{ z with hc := 250, dc := 256, buf := [(253, 0)] }, by decide⟩⟩

theorem witness_BitFlip : ∃ (pl : List Byte) (j k : Nat), j < pl.length ∧ k < 8 := ⟨[0x80], 0, 7, by decide⟩

theorem witness_ChecksumNeverWraps : ∃ s : State, Inv s ∧ s.st = .complete ∧ s.ck = true := ⟨good, inv_good, rfl, rfl⟩

theorem witness_PollWhileFaulted :
    ∃ (d : Descriptor) (s : State), d.wf = true ∧ s.dph = .ready ∧ s.fault = true :=
  ⟨gv, { good with fault := true }, by decide⟩

theorem witness_PollUnderWay :
    (∃ (d : Descriptor) (s : State), d.wf = true ∧ s.dph = .ready ∧ s.fault = false ∧ s.st = .sent) ∧
    (∃ (d : Descriptor) (s : State), d.wf = true ∧ s.dph = .ready ∧ s.fault = false ∧ s.st = .receivingHeader) ∧
    (∃ (d d' : Descriptor) (s t : State), d.wf = true ∧ s.dph = .ready ∧ s.fault = false ∧
      s.st = .receivingPayload ∧ d'.wf = true ∧ exec (.poll d) s = .next t) := by
  obtain ⟨t, h⟩ := ran (o := exec (.poll gv) inPayload) (by decide)
  exact ⟨⟨gv, halfSync, by decide⟩, ⟨gv, inHeader, by decide⟩,
    ⟨gv, gv, inPayload, t, by decide, rfl, rfl, rfl, by decide, h⟩⟩

theorem witness_Start :
    ∃ (d : Descriptor) (s : State), d.wf = true ∧ s.dph = .ready ∧ s.fault = false ∧ s.st = .idle :=
  ⟨gv, z, by decide⟩

theorem witness_Txack :
    (∃ (f : List Byte) (i : Nat) (b : Byte) (s : State), s.dph = .tx f i ∧ f[i]? = some b) ∧
    (∃ s : State, s.dph = .ready) ∧ (∃ (s : State) (f : List Byte), s.dph = .tx f f.length) :=
  ⟨⟨gvFrame, 3, 0, { z with dph := .tx gvFrame 3 }, rfl, rfl⟩, ⟨z, rfl⟩, ⟨{ z with dph := .tx gvFrame 4 }, gvFrame, rfl⟩⟩

theorem witness_SetSent :
    (∃ (f : List Byte) (s : State) (d : Descriptor), s.dph = .tx f f.length ∧ d.wf = true ∧ s.fault = false) ∧
    (∃ (f : List Byte) (s : State) (d : Descriptor), s.dph = .tx f f.length ∧ d.wf = true ∧ s.fault = true) ∧
    (∃ (f : List Byte) (i : Nat) (s : State), s.dph = .tx f i ∧ i + 1 = f.length) :=
  ⟨⟨gvFrame, { z with dph := .tx gvFrame 4 }, gv, rfl, by decide, rfl⟩,
    ⟨gvFrame, { z with dph := .tx gvFrame 4, fault := true }, gv, rfl, by decide, rfl⟩,
    ⟨gvFrame, 3, { z with dph := .tx gvFrame 3 }, rfl, rfl⟩⟩

theorem witness_PollIsHeld :
    (∃ (d : Descriptor) (f : List Byte) (i : Nat) (w rest : List Byte) (ws : List (List Byte)) (s : State),
      d.wf = true ∧ s.dph = .tx f i ∧ takeReady s s.held = none ∧ s.input = w :: ws ∧
      decode w = .ok (.poll d, rest)) ∧
    (∃ (d : Descriptor) (js : List Instr) (s : State), s.dph = .ready ∧ s.held = .poll d :: js) :=
  ⟨⟨gv, gvFrame, 0, [0x02, 0x0E, 0x0F, 0x00, 0x00, 0x00], [], [],
      { z with dph := .tx gvFrame 0, input := [[0x02, 0x0E, 0x0F, 0x00, 0x00, 0x00]] },
      by decide, rfl, rfl, rfl, rfl⟩,
    ⟨gv, [], { z with held := [.poll gv] }, rfl, rfl⟩⟩

theorem witness_RequestGoesOut :
    ∃ (pl : List Byte) (s : State), pl.length ≤ 255 ∧ s.dph = .ready ∧ s.fault = false ∧ s.st = .idle :=
  ⟨[], z, by decide⟩

theorem witness_HarvestBadChecksum :
    ∃ (d : Descriptor) (s : State), Inv s ∧ d.wf = true ∧ s.dph = .ready ∧ s.fault = false ∧ s.st = .complete ∧
      s.ck = true ∧ checksumMatches s = false :=
  ⟨gv, bad, inv_bad, by decide, rfl, rfl, rfl, rfl, by decide⟩

/-- With a good checksum, and with none. -/
theorem witness_HarvestExpected :
    (∃ (d : Descriptor) (s : State), Inv s ∧ d.wf = true ∧ s.dph = .ready ∧ s.fault = false ∧ s.st = .complete ∧
      checksumMatches s = true ∧ s.ck = true ∧ cell s (s.hc + 2) = d.exp) ∧
    (∃ (d : Descriptor) (s : State), Inv s ∧ d.wf = true ∧ s.dph = .ready ∧ s.fault = false ∧ s.st = .complete ∧
      s.ck = false ∧ cell s (s.hc + 2) = d.exp) :=
  ⟨⟨gv, good, inv_good, by decide, rfl, rfl, rfl, by decide, rfl, by decide⟩,
    ⟨{ gv with exp := 3 }, errorReply, inv_errorReply, by decide, rfl, rfl, rfl, rfl, by decide⟩⟩

theorem witness_HarvestSensorError :
    ∃ (d : Descriptor) (s : State), Inv s ∧ d.wf = true ∧ s.dph = .ready ∧ s.fault = false ∧ s.st = .complete ∧
      s.ck = false ∧ cell s (s.hc + 2) ≠ d.exp ∧ cell s (s.hc + 2) = s.cfg.typeError :=
  ⟨gv, errorReply, inv_errorReply, by decide, rfl, rfl, rfl, rfl, by decide, by decide⟩

theorem witness_HarvestUnexpected :
    ∃ (d : Descriptor) (s : State), Inv s ∧ d.wf = true ∧ s.dph = .ready ∧ s.fault = false ∧ s.st = .complete ∧
      s.ck = false ∧ cell s (s.hc + 2) ≠ d.exp ∧ cell s (s.hc + 2) ≠ s.cfg.typeError :=
  ⟨gv, strange, inv_strange, by decide, rfl, rfl, rfl, rfl, by decide, by decide⟩

/-- Two states with one frame and different bytes after it. -/
def goodThen (b : Byte) : State := { good with buf := good.buf ++ [(8, b)], wc := 9 }

theorem inv_goodThen1 : Inv (goodThen 1) :=
  inv_of _ rfl (by decide) (by decide) (by decide) (by decide) (by decide) (by decide)

theorem inv_goodThen2 : Inv (goodThen 2) :=
  inv_of _ rfl (by decide) (by decide) (by decide) (by decide) (by decide) (by decide)

theorem witness_HarvestDependsOnTheFrame :
    ∃ (d : Descriptor) (s u s' u' : State), Inv s ∧ Inv u ∧ s.dph = .ready ∧ u.dph = .ready ∧ s.fault = false ∧
      u.fault = false ∧ s.st = .complete ∧ u.st = .complete ∧ s.cfg = u.cfg ∧ s.hc = u.hc ∧ s.dc = u.dc ∧
      s.plen = u.plen ∧ s.ck = u.ck ∧
      (∀ a, s.hc ≤ a → a < s.dc + s.plen.toNat → cell s a = cell u a) ∧
      (4 ≤ s.plen.toNat ∨ cell s (s.hc + 2) ≠ s.cfg.typeError) ∧
      exec (.poll d) s = .next s' ∧ exec (.poll d) u = .next u' ∧ s.buf ≠ u.buf := by
  obtain ⟨t, h⟩ := ran (o := exec (.poll gv) (goodThen 1)) (by decide)
  obtain ⟨u, g⟩ := ran (o := exec (.poll gv) (goodThen 2)) (by decide)
  refine ⟨gv, goodThen 1, goodThen 2, t, u, inv_goodThen1, inv_goodThen2, rfl, rfl, rfl, rfl, rfl, rfl, rfl, rfl, rfl,
    rfl, rfl, ?_, by decide, h, g, by decide⟩
  have e : ∀ a, a < 8 → cell (goodThen 1) a = cell (goodThen 2) a := by decide
  exact fun a _ ha => e a ha

theorem witness_OnlyBytesMove :
    ∃ (i : Instr) (s t : State), Inv s ∧ s.st = .sent ∧ isReceive i = false ∧ i ≠ .reset ∧
      exec i s = .next t := by
  obtain ⟨t, h⟩ := ran (o := exec (.poll gv) halfSync) (by decide)
  exact ⟨.poll gv, halfSync, t, inv_halfSync, rfl, rfl, by decide, h⟩

theorem witness_ArrayDecoder : ∃ rs : Byte, rs ≠ 0 := ⟨1, by decide⟩

/-- The multi-record payload of R195 with a lone byte behind it. -/
theorem witness_Walker :
    ∃ (s : State) (rs : List Rec) (tail : List Byte), s.dc + s.plen.toNat ≤ CAP ∧
      (∀ r ∈ rs, r.2.length ≤ 255) ∧ Truncated tail ∧ tail ≠ [] ∧ rs.length = 2 ∧
      bytesAt s s.dc s.plen.toNat = rs.flatMap recordBytes ++ tail :=
  ⟨doneNock 0x31 [1, 6, 0xA0, 0xA1, 0xA2, 0xA3, 0xA4, 0xA5, 4, 4, 0xB0, 0xB1, 0xB2, 0xB3, 1],
    [(1, [0xA0, 0xA1, 0xA2, 0xA3, 0xA4, 0xA5]), (4, [0xB0, 0xB1, 0xB2, 0xB3])], [1],
    by decide, by decide, trivial, by decide, rfl, by decide⟩

theorem witness_WalkerViews :
    ∃ (s : State) (m : BitVec 3) (v : View), decodeTlv s = .tlv m (some v) none none :=
  ⟨doneNock 0x31 [1, 6, 0, 0, 0, 0, 0, 0], 1, { kind := .vector, offset := 6, count := 1, len := 6 }, by decide⟩

theorem witness_Record :
    ∃ (c : Cfg) (tag : Byte), c.wf = true ∧ tag ≠ c.tagVector ∧ tag ≠ c.tagIntersection ∧ tag ≠ c.tagBarcode :=
  ⟨Config.profileP, 9, by decide⟩

/-- An error code of which one byte lies past the buffer, and one of which none does. -/
theorem witness_ErrorCode :
    (∃ (s : State) (k : Nat), k < 4 ∧ s.dc + k = CAP) ∧ (∃ (s : State) (k : Nat), k < 4 ∧ s.dc + k + 1 = CAP) :=
  ⟨⟨{ z with dc := 253 }, 3, by decide⟩, ⟨{ z with dc := 252 }, 3, by decide⟩⟩

/-- The clauses about a complete frame are met as in the four harvests above; the others here. -/
theorem witness_ResultRows :
    (∃ (d : Descriptor) (s : State), d.wf = true ∧ s.dph = .ready ∧ s.fault = true) ∧
    (∃ (d : Descriptor) (s : State), d.wf = true ∧ s.dph = .ready ∧ s.fault = false ∧ s.st = .sent) ∧
    (∃ (d : Descriptor) (f : List Byte) (s : State), d.wf = true ∧ s.dph = .tx f f.length ∧ s.fault = false) ∧
    (∃ (d : Descriptor) (f : List Byte) (s : State), d.wf = true ∧ s.dph = .tx f f.length ∧ s.fault = true) :=
  ⟨⟨gv, { good with fault := true }, by decide⟩, ⟨gv, halfSync, by decide⟩,
    ⟨gv, gvFrame, { z with dph := .tx gvFrame 4 }, by decide, rfl, rfl⟩,
    ⟨gv, gvFrame, { z with dph := .tx gvFrame 4, fault := true }, by decide, rfl, rfl⟩⟩

theorem witness_StatusCodes :
    (∃ s : State, s.st = .idle) ∧ (∃ s : State, s.st = .sent) ∧ (∃ s : State, s.st = .receivingHeader) ∧
    (∃ s : State, s.st = .receivingPayload) ∧ (∃ s : State, s.st = .complete) :=
  ⟨⟨z, rfl⟩, ⟨halfSync, rfl⟩, ⟨inHeader, rfl⟩, ⟨inPayload, rfl⟩, ⟨good, rfl⟩⟩

theorem witness_InvariantHoldsAtReset : ∃ c : Cfg, c.wf = true := ⟨Config.profileP, by decide⟩

/-- A step that moves the receiver, from a state that is not the reset state. -/
theorem witness_EveryStepKeeps : ∃ s t : State, Inv s ∧ step s = .next t ∧ t.st ≠ s.st := by
  obtain ⟨t, h, e⟩ := ranTo (o := step { halfSync with input := [[0x00, 0xC1]] })
    (P := fun t => decide (t.st ≠ .sent)) (by decide)
  exact ⟨{ halfSync with input := [[0x00, 0xC1]] }, t,
    inv_of _ rfl (by decide) (by decide) (by decide) (by decide) (by decide) (by decide), h, of_decide_eq_true e⟩

theorem witness_GoodRuns : ∃ (n : Nat) (s t : State), Inv s ∧ GoodRun n s t ∧ n = 2 := by
  obtain ⟨t, h, e⟩ := ranTo (o := steps 2 { z with input := [[0x00, 0xC1], [0x05]] })
    (P := fun t => !t.fault) (by decide)
  exact ⟨2, { z with input := [[0x00, 0xC1], [0x05]] }, t,
    inv_of _ rfl (by decide) (by decide) (by decide) (by decide) (by decide) (by decide), ⟨h, by simpa using e⟩, rfl⟩

/-- The second clause at the buffer's last index: a byte received at 255. -/
theorem witness_NoReadOrWrite :
    (∃ (i : Instr) (s : State), Inv s ∧ i ≠ .verifyChecksum ∧ i ≠ .decodeTlv ∧ i ≠ .dkTlv) ∧
    (∃ (i : Instr) (s t : State), Inv s ∧ exec i s = .next t ∧ s.wc = 255 ∧ t.wc = 256) := by
  obtain ⟨t, h, e⟩ := ranTo (o := exec (.rx 0) inHeaderLate) (P := fun t => decide (t.wc = 256)) (by decide +kernel)
  exact ⟨⟨.poll gv, good, inv_good, by decide, by decide, by decide⟩,
    ⟨.rx 0, inHeaderLate, t, inv_inHeaderLate, h, by decide +kernel, of_decide_eq_true e⟩⟩

theorem witness_OnlyReceivedBytes :
    (∃ (i : Instr) (s t : State), exec i s = .next t ∧ isReceive i = false) ∧
    (∃ (i : Instr) (s t : State), exec i s = .next t ∧ isReceive i = true ∧ s.wc < t.wc) := by
  obtain ⟨t, h⟩ := ran (o := exec (.poll gv) good) (by decide)
  obtain ⟨u, g, e⟩ := ranTo (o := exec .syncCk halfSync) (P := fun t => decide (1 < t.wc)) (by decide)
  exact ⟨⟨_, _, t, h, rfl⟩, ⟨_, halfSync, u, g, rfl, of_decide_eq_true e⟩⟩

theorem witness_HeaderRegisters :
    ∃ (i : Instr) (s t : State), isReceive i = false ∧ i ≠ .reset ∧ exec i s = .next t := by
  obtain ⟨t, h⟩ := ran (o := exec (.poll gv) good) (by decide)
  exact ⟨.poll gv, good, t, rfl, by decide, h⟩

theorem witness_WriteCursorBack : ∃ (i : Instr) (s t : State), exec i s = .next t ∧ t.wc < s.wc := by
  obtain ⟨t, h, e⟩ := ranTo (o := exec (.poll gv) { z with wc := 21 }) (P := fun t => decide (t.wc < 21)) (by decide)
  exact ⟨.poll gv, { z with wc := 21 }, t, h, of_decide_eq_true e⟩

theorem witness_ParametersAndObservations : ∃ s t : State, step s = .next t ∧ s.outs ≠ t.outs := by
  obtain ⟨t, h, e⟩ := ranTo (o := step { good with input := [[0x05]] }) (P := fun t => decide ([] ≠ t.outs)) (by decide)
  exact ⟨{ good with input := [[0x05]] }, t, h, of_decide_eq_true e⟩

theorem witness_Step :
    (∃ (s : State) (w rest : List Byte) (ws : List (List Byte)) (i : Instr),
      takeReady s s.held = none ∧ s.input = w :: ws ∧ decode w = .ok (i, rest) ∧ waits s i = false) ∧
    (∃ (s : State) (w rest : List Byte) (ws : List (List Byte)) (i : Instr),
      takeReady s s.held = none ∧ s.input = w :: ws ∧ decode w = .ok (i, rest) ∧ waits s i = true) ∧
    (∃ (s : State) (i : Instr) (is : List Instr), takeReady s s.held = some (i, is)) ∧
    (∃ (s : State) (w : List Byte) (ws : List (List Byte)) (e : DecodeRefusal),
      takeReady s s.held = none ∧ s.input = w :: ws ∧ decode w = .error e) ∧
    (∃ s : State, takeReady s s.held = none ∧ s.input = [] ∧ allSent s.dph = true) ∧
    (∃ s : State, takeReady s s.held = none ∧ s.input = [] ∧ allSent s.dph = false) :=
  ⟨⟨{ z with input := [[0x05]] }, [0x05], [], [], .status, rfl, rfl, rfl, rfl⟩,
    ⟨{ z with input := [[0x01]] }, [0x01], [], [], .txack, rfl, rfl, rfl, rfl⟩,
    ⟨{ z with held := [.txack, .poll gv] }, .poll gv, [.txack], rfl⟩,
    ⟨{ z with input := [[0x40]] }, [0x40], [], .unassigned 0x40, rfl, rfl, rfl⟩,
    ⟨{ z with dph := .tx gvFrame 4 }, rfl, rfl, rfl⟩, ⟨z, rfl, rfl, rfl⟩⟩

theorem witness_PlacedWord :
    ∃ (s : State) (nbits w : Nat) (i : Instr), decodeTableWord nbits w = some i ∧ waits s i = false :=
  ⟨{ z with held := [.poll gv] }, 16, 0xAF00, .rx 0xAF, rfl, rfl⟩

end Sys2Proof.Tests
end

section
/-! What one delivered byte does in a state of the invariant (40_receiver.md R100, R103, R112), and the wire rows of one byte as
deliveries of it. -/

namespace Sys2Proof.Machine

/-! ### The arms of the one-byte deliveries -/

@[simp] theorem exec_rx (b : Byte) (s : State) : exec (.rx b) s = receive b s := rfl
@[simp] theorem exec_typeError (s : State) : exec .typeError s = receive s.cfg.typeError s := rfl
@[simp] theorem exec_typeGetVersion (s : State) : exec .typeGetVersion s = receive 14 s := rfl
@[simp] theorem exec_typeVersion (s : State) : exec .typeVersion s = receive 15 s := rfl
@[simp] theorem exec_tagVector (s : State) : exec .tagVector s = receive s.cfg.tagVector s := rfl
@[simp] theorem exec_tagIntersection (s : State) : exec .tagIntersection s = receive s.cfg.tagIntersection s := rfl
@[simp] theorem exec_tagBarcode (s : State) : exec .tagBarcode s = receive s.cfg.tagBarcode s := rfl

/-! ### The rule of a state on a stored byte -/

/-- No rule of R104 to R111 moves the write cursor or writes the buffer: R103 and R112 do. -/
theorem receiveRule_wc_buf {s t : State} (h : receiveRule s = .next t) : t.wc = s.wc ∧ t.buf = s.buf := by
  obtain ⟨-, rfl⟩ | ⟨-, rfl⟩ | ⟨-, -, -, rfl⟩ | ⟨-, -, rfl⟩ | ⟨-, rfl⟩ := receiveRule_cases h <;> simp

theorem four_le_headerSize (ck : Bool) : 4 ≤ headerSize ck := by
  cases ck <;> decide

/-- At a header's end the length byte lies in the buffer (R55): it stands below `dc`, which the cursor has reached. -/
theorem Inv.lengthByte_within {s : State} (hi : Inv s) (hw : s.wc < CAP) (hs : s.st = .receivingHeader)
    (hd : s.dc ≤ s.wc + 1) : s.hc + 4 ≤ CAP := by
  obtain ⟨-, -, hdc, -⟩ := hi.header hs
  have := four_le_headerSize s.ck
  omega

/-- R55: in a state of the invariant with room, the rule that follows the store never leaves the buffer. -/
theorem Inv.receiveRule_store_next {s : State} (hi : Inv s) (hw : s.wc < CAP) (b : Byte) :
    ∃ u, receiveRule (store b s) = .next u := by
  cases hs : s.st with
  | idle => exact ⟨_, receiveRule_idle (.inl hs)⟩
  | complete => exact ⟨_, receiveRule_idle (.inr hs)⟩
  | sent => exact ⟨_, receiveRule_sent hs⟩
  | receivingPayload => exact ⟨_, receiveRule_payload hs⟩
  | receivingHeader =>
    by_cases hd : s.dc ≤ s.wc + 1
    · have hin := within_of_le (.next (takeLength (store b s))) (hi.lengthByte_within hw hs hd)
      exact ⟨_, (receiveRule_headerEnd (s := store b s) hs hd).trans hin⟩
    · exact ⟨_, receiveRule_header (s := store b s) hs (Nat.lt_of_not_le hd)⟩

/-! ### The delivery -/

/-- R103, R112: a receive that neither drops its byte nor overruns leaves it at the old cursor and moves the cursor by one. -/
theorem receive_stores {b : Byte} {s t : State} (hf : s.fault = false) (hw : s.wc < CAP)
    (h : receive b s = .next t) : cell t s.wc = b ∧ t.wc = s.wc + 1 := by
  rw [receive_stored b hf hw] at h
  obtain ⟨u, hu, ht⟩ := andThen_eq_next h
  cases ht
  obtain ⟨hwc, hbuf⟩ := receiveRule_wc_buf hu
  have hcell : cell (advance u) s.wc = cell (store b s) s.wc := cell_congr hbuf s.wc
  exact ⟨hcell.trans (cell_store_same b s), by simp [hwc]⟩

/-- R100: in a state of the invariant with no fault and room, every byte delivered is taken. -/
theorem Inv.receive_next {s : State} (hi : Inv s) (hf : s.fault = false) (hw : s.wc < CAP) (b : Byte) :
    ∃ t, receive b s = .next t := by
  obtain ⟨u, hu⟩ := hi.receiveRule_store_next hw b
  exact ⟨advance u, by rw [receive_stored b hf hw, hu, andThen_next]⟩

theorem Inv.receive_delivers {s : State} (hi : Inv s) (hf : s.fault = false) (hw : s.wc < CAP) (b : Byte) :
    ∃ t, receive b s = .next t ∧ cell t s.wc = b ∧ t.wc = s.wc + 1 := by
  obtain ⟨t, ht⟩ := hi.receive_next hf hw b
  exact ⟨t, ht, receive_stores hf hw ht⟩

/-- Settles O19: each row is the receive of its byte, and a receive in a state of the invariant with room delivers. -/
theorem wireBytesAreDelivered : Obligations.WireBytesAreDelivered := by
  unfold Obligations.WireBytesAreDelivered
  refine ⟨fun s => by simp, fun s hi hf hw => ?_⟩
  have delivers := hi.receive_delivers hf hw
  exact ⟨delivers _, delivers _, delivers _, delivers _, delivers _, delivers _⟩

end Sys2Proof.Machine
end

section
/-! What every instruction can do (20_memory.md R56): each row is a chain of atomic moves of the block, each move named once with
the rows that may make it. A rule about the whole machine is then a rule about the moves. The invariant of R28 is the first of
them: it holds after power-on, every move keeps it, and so does every step and every run. -/

namespace Sys2Proof.Machine

/-! ### The moves -/

/-- The rows that may take the write cursor back to 0: `RESET`, and those that start a transaction (R153, R240). -/
def rewinds : Instr → Bool
  | .reset | .poll _ | .startReset _ | .frameRequest _ _ => true
  | _ => false

/-- One atomic move of the block, made for the row `i`. -/
inductive Move (i : Instr) (s : State) : State → Prop where
  /-- a byte arrives (R100) -/
  | receive {b : Byte} {t : State} (hi : isReceive i = true) (h : receive b s = .next t) : Move i s t
  /-- the registers take their reset values (R240) -/
  | reset (hi : i = .reset) : Move i s (fullReset s)
  /-- a transaction starts (R153) -/
  | start {req : Byte} {pl : List Byte} (hi : rewinds i = true) (hpl : pl.length ≤ maxPayload) (hs : s.st = .idle) :
      Move i s (startTransaction req pl s)
  /-- the byte on offer is accepted (R154) -/
  | send {f : List Byte} {k : Nat} (hd : s.dph = .tx f k) (hk : k < f.length) : Move i s { s with dph := .tx f (k + 1) }
  /-- a start completes (R155) -/
  | finish (ha : allSent s.dph = true) : Move i s { s with st := .sent, dph := .ready }
  /-- a harvest consumes the frame (R158) -/
  | harvest (hs : s.st = .complete) : Move i s { s with st := .idle }
  /-- something is seen at an output port -/
  | put (o : Output) : Move i s (put o s)
  /-- a function run as a row of its own has its value -/
  | evaluate (v : FnValue) : Move i s (evaluate v s)
  /-- an error code was read (R191) -/
  | useDraws : Move i s (useDraws s)

/-- The moves of one row, in a row. -/
abbrev Moves (i : Instr) : State → State → Prop := Relation.ReflTransGen (Move i)

/-! ### The shared operations as moves -/

section
variable {i : Instr} {s t : State}

theorem moves_receiveAll {bs : List Byte} (hi : isReceive i = true) (h : receiveAll bs s = .next t) : Moves i s t :=
  receiveAll_keeps (P := Moves i s) (fun _ _ _ hm hr => hm.tail (.receive hi hr)) bs s t .refl h

theorem moves_hold (h : hold s = .next t) : Moves i s t := by
  obtain rfl := hold_next_iff.mp h
  exact .refl

theorem moves_sendByte (h : sendByte s = .next t) : Moves i s t := by
  obtain ⟨f, k, b, hd, hb, rfl⟩ | ⟨-, rfl⟩ := sendByte_cases h
  · obtain ⟨hk, -⟩ := List.getElem?_eq_some_iff.mp hb
    exact (Relation.ReflTransGen.single (.send hd hk)).tail (.put _)
  · exact .refl

theorem moves_sendBytes {n : Nat} (h : sendBytes n s = .next t) : Moves i s t := by
  induction n generalizing s with
  | zero => cases h; exact .refl
  | succ n ih =>
    obtain ⟨u, hu, ht⟩ := andThen_eq_next h
    exact (moves_sendByte hu).trans (ih ht)

theorem moves_finishStart (h : finishStart s = .next t) : Moves i s t := by
  obtain ⟨ha, rfl⟩ | ⟨-, rfl⟩ := finishStart_cases h
  · exact (Relation.ReflTransGen.single (.finish ha)).tail (.put _)
  · exact .refl

theorem moves_countDraws (r : Result) (s : State) : Moves i s (countDraws r s) := by
  cases r with
  | sensorError _ => exact .single .useDraws
  | _ => exact .refl

theorem moves_harvestWith {d : Descriptor} (hs : s.st = .complete) (h : harvestWith d s = .next t) : Moves i s t := by
  obtain ⟨-, rfl⟩ := harvestWith_cases h
  exact ((Relation.ReflTransGen.single (.harvest hs)).tail (.put _)).trans (moves_countDraws _ _)

theorem payload_le_of_wf {d : Descriptor} (h : d.wf = true) : d.pl.length ≤ maxPayload :=
  of_decide_eq_true (Bool.and_eq_true_iff.mp h).1

/-- A poll starts a transaction only where none can complete (R152). -/
theorem moves_pollWith {d : Descriptor} (hi : rewinds i = true ∨ completion d s ≠ none) (h : pollWith d s = .next t) :
    Moves i s t := by
  obtain ⟨hw, ⟨-, rfl⟩ | ⟨-, -, rfl⟩ | ⟨hd, hf, hs, rfl⟩ | ⟨-, -, -, -, rfl⟩ | ⟨-, -, hs, hh⟩⟩ := pollWith_cases h
  · exact .refl
  · exact .single (.put _)
  · have starts : completion d s = none := by simp [completion, hd, hf, hs]
    exact .single (.start (hi.resolve_right (absurd starts)) (payload_le_of_wf hw) hs)
  · exact .single (.put _)
  · exact moves_harvestWith hs hh

theorem moves_completeWith {k : ResultKind} {d : Descriptor} (h : completeWith k d s = .next t) : Moves i s t := by
  obtain ⟨-, h⟩ := admitted_next_iff.mp h
  split at h
  · rename_i hk
    have completes : completion d s ≠ none := fun hn => by simp [hn] at hk
    unfold completionStep at h
    split at h
    · exact moves_finishStart h
    · exact moves_pollWith (.inr completes) h
  · exact moves_hold h

theorem moves_evaluateDecoder {k : DecodeKind} (h : evaluateDecoder k s = .next t) : Moves i s t := by
  obtain ⟨-, -, rfl⟩ := evaluateDecoder_cases h
  exact .single (.evaluate _)

theorem moves_statusIs {k : TState} (h : statusIs k s = .next t) : Moves i s t := by
  obtain ⟨-, rfl⟩ | ⟨-, rfl⟩ := statusIs_cases h
  · exact .single (.put _)
  · exact .refl

/-! ### The rows with more than one shared operation -/

theorem moves_execStartReset {d : Descriptor} (hi : rewinds i = true) (h : execStartReset d s = .next t) :
    Moves i s t := by
  obtain ⟨hw, h⟩ := admitted_next_iff.mp h
  split at h
  · rename_i hs
    cases h
    exact .single (.start hi (payload_le_of_wf hw) hs.2.2)
  · exact moves_hold h

theorem moves_execHarvest {d : Descriptor} (h : execHarvest d s = .next t) : Moves i s t := by
  obtain ⟨-, h⟩ := admitted_next_iff.mp h
  split at h
  · rename_i hs
    exact moves_harvestWith hs.2.2 h
  · exact moves_hold h

theorem moves_execEncodeRequest {req : Byte} {pl : List Byte} (h : execEncodeRequest req pl s = .next t) :
    Moves i s t := by
  obtain ⟨-, h⟩ := admitted_next_iff.mp h
  cases h
  exact .single (.evaluate _)

theorem moves_execVerifyChecksum (h : execVerifyChecksum s = .next t) : Moves i s t := by
  obtain ⟨-, rfl⟩ := within_next_iff.mp h
  exact .single (.evaluate _)

theorem moves_execDecodeErrcode (h : execDecodeErrcode s = .next t) : Moves i s t := by
  cases h
  exact (Relation.ReflTransGen.single (.evaluate _)).tail .useDraws

theorem moves_execFrameRequest {req : Byte} {pl : List Byte} (hi : rewinds i = true)
    (h : execFrameRequest req pl s = .next t) : Moves i s t := by
  obtain ⟨hpl, h⟩ := admitted_next_iff.mp h
  split at h
  · rename_i hs
    obtain ⟨u, hu, ht⟩ := andThen_eq_next h
    have started : Moves i s (startTransaction req pl s) := .single (.start hi (of_decide_eq_true hpl) hs.2.2)
    exact (started.trans (moves_sendBytes hu)).trans (moves_finishStart ht)
  · exact moves_hold h

theorem moves_execFrameReply {ty : Byte} {ck : Option Half} {pl : List Byte} (hi : isReceive i = true)
    (h : execFrameReply ty ck pl s = .next t) : Moves i s t := by
  unfold execFrameReply at h
  split at h
  · exact moves_receiveAll hi h
  · cases h

end

/-- Every instruction that answers a next state reaches it by moves its row may make. -/
theorem exec_moves {s t : State} : ∀ i : Instr, exec i s = .next t → Moves i s t
  -- the input events
  | .rx _, h => .single (.receive rfl h)
  | .txack, h => moves_sendByte h
  | .poll _, h => moves_pollWith (.inl rfl) h
  | .reset, h => by cases h; exact .single (.reset rfl)
  | .view _, h => by cases h; exact .single (.put _)
  | .status, h => by cases h; exact .single (.put _)
  -- the dispatcher's steps
  | .startReset _, h => moves_execStartReset rfl h
  | .txByte, h => moves_sendByte h
  | .setSent, h => moves_finishStart h
  | .harvest _, h => moves_execHarvest h
  -- the functions and the decoder kinds
  | .encodeRequest _ _, h => moves_execEncodeRequest h
  | .verifyChecksum, h => moves_execVerifyChecksum h
  | .decodeErrcode, h => moves_execDecodeErrcode h
  | .decodeFixed, h | .dkFixed, h => moves_evaluateDecoder (k := .fixed) h
  | .decodeArray rs, h | .dkArray rs, h => moves_evaluateDecoder (k := .array rs) h
  | .decodeTlv, h | .dkTlv, h => moves_evaluateDecoder (k := .tlv) h
  -- the wire
  | .frameRequest _ _, h => moves_execFrameRequest rfl h
  | .frameReply _ _ _, h => moves_execFrameReply rfl h
  | .syncNock, h | .syncCk, h => moves_receiveAll rfl h
  | .typeError, h | .typeGetVersion, h | .typeVersion, h => .single (.receive rfl h)
  | .tagVector, h | .tagIntersection, h | .tagBarcode, h => .single (.receive rfl h)
  -- the result kinds and the status codes
  | .ok _, h | .busy _, h | .badChecksum _, h => moves_completeWith h
  | .typeErrorResult _, h | .sensorError _, h | .faultResult _, h => moves_completeWith h
  | .stIdle, h | .stSent, h | .stReceivingHeader, h | .stReceivingPayload, h | .stComplete, h => moves_statusIs h
  -- the rows that are refused
  | .reservedEvent6, h | .reservedEvent7, h | .reservedDk3, h | .timeout, h | .reservedResult7, h => by cases h

/-- A property that every move of a row keeps is kept by the row. -/
theorem exec_keeps {P : State → Prop} {i : Instr} {s t : State} (hP : ∀ {u v}, P u → Move i u v → P v) (hs : P s)
    (h : exec i s = .next t) : P t := by
  have moves := exec_moves i h
  clear h
  induction moves with
  | refl => exact hs
  | tail _ hm ih => exact hP ih hm

/-- A property that every move keeps, and that is not about what is offered or held, is kept by every step. -/
theorem step_keeps {P : State → Prop} {s t : State} (hP : ∀ {i u v}, P u → Move i u v → P v)
    (henv : ∀ input held, P { s with input := input, held := held }) (h : step s = .next t) : P t := by
  obtain ⟨i, input, held, hx⟩ | ⟨input, held, rfl⟩ := step_cases h
  · exact exec_keeps hP (henv input held) hx
  · exact henv input held

/-! ### What the moves leave unchanged -/

/-- No rule of R104 to R111 writes the parameters or the dispatcher phase. -/
theorem receiveRule_cfg_dph {s t : State} (h : receiveRule s = .next t) : t.cfg = s.cfg ∧ t.dph = s.dph := by
  obtain ⟨-, rfl⟩ | ⟨-, rfl⟩ | ⟨-, -, -, rfl⟩ | ⟨-, -, rfl⟩ | ⟨-, rfl⟩ := receiveRule_cases h <;> simp

theorem receive_cfg {b : Byte} {s t : State} (h : receive b s = .next t) : t.cfg = s.cfg := by
  obtain ⟨-, rfl⟩ | ⟨-, -, rfl⟩ | ⟨-, -, u, hu, rfl⟩ := receive_cases h
  · rfl
  · rfl
  · exact (receiveRule_cfg_dph hu).1

theorem receive_wc_le {b : Byte} {s t : State} (h : receive b s = .next t) : s.wc ≤ t.wc := by
  obtain ⟨-, rfl⟩ | ⟨-, -, rfl⟩ | ⟨-, -, u, hu, rfl⟩ := receive_cases h
  · exact Nat.le_refl _
  · exact Nat.le_refl _
  · rw [advance_wc, (receiveRule_wc_buf hu).1, store_wc]
    exact Nat.le_succ _

/-- R33. -/
theorem Move.cfg_eq {i : Instr} {s t : State} (h : Move i s t) : t.cfg = s.cfg := by
  cases h with
  | receive _ hr => exact receive_cfg hr
  | _ => rfl

/-- R23 to R26. -/
theorem Move.headerRegisters_eq {i : Instr} {s t : State} (hr : isReceive i = false) (hi : i ≠ .reset) (h : Move i s t) :
    t.hc = s.hc ∧ t.dc = s.dc ∧ t.plen = s.plen ∧ t.ck = s.ck := by
  cases h with
  | receive hr' _ => simp [hr] at hr'
  | reset hi' => exact absurd hi' hi
  | _ => exact ⟨rfl, rfl, rfl, rfl⟩

theorem rewinds_iff {i : Instr} :
    rewinds i = true ↔ i = .reset ∨ (∃ d, i = .poll d) ∨ (∃ d, i = .startReset d) ∨ ∃ req pl, i = .frameRequest req pl := by
  cases i <;> simp [rewinds]

theorem isReceive_of_rewinds {i : Instr} (h : rewinds i = true) : isReceive i = false := by
  obtain rfl | ⟨_, rfl⟩ | ⟨_, rfl⟩ | ⟨_, _, rfl⟩ := rewinds_iff.mp h <;> rfl

/-- R22: no move of any other row takes the write cursor back. -/
theorem Move.wc_le {i : Instr} {s t : State} (hi : rewinds i = false) (h : Move i s t) : s.wc ≤ t.wc := by
  cases h with
  | receive _ hr => exact receive_wc_le hr
  | reset hi' => subst hi'; simp [rewinds] at hi
  | start hi' _ _ => simp [hi] at hi'
  | _ => exact Nat.le_refl _

/-- R22, R153, R240: a row that takes the write cursor back moves it to 0 and nowhere else. -/
theorem Move.wc_of_rewinds {i : Instr} {s t : State} (hi : rewinds i = true) (h : Move i s t) :
    t.wc = 0 ∨ t.wc = s.wc := by
  cases h with
  | receive hr _ => simp [isReceive_of_rewinds hi] at hr
  | reset _ => exact .inl rfl
  | start _ _ _ => exact .inl rfl
  | _ => exact .inr rfl

/-! ### The invariant, phase by phase -/

/-- What R28 asks in the state `p`. -/
def InPhase (s : State) : TState → Prop
  | .idle | .sent => True
  | .receivingHeader => s.hc + 2 ≤ s.wc ∧ s.wc < s.dc ∧ FrameFound s
  | .receivingPayload => s.hc < s.dc ∧ s.dc ≤ s.wc ∧ s.wc < frameEnd s ∧ HeaderTaken s
  | .complete => s.hc < s.dc ∧ s.dc < frameEnd s ∧ frameEnd s ≤ s.wc ∧ HeaderTaken s

theorem inPhase_iff {s : State} :
    InPhase s s.st ↔
      (s.st = .receivingHeader → InPhase s .receivingHeader) ∧
      (s.st = .receivingPayload → InPhase s .receivingPayload) ∧
      (s.st = .complete → InPhase s .complete) := by
  cases s.st <;> simp [InPhase]

theorem Inv.inPhase {s : State} (hi : Inv s) : InPhase s s.st :=
  inPhase_iff.mpr ⟨hi.header, hi.payload, hi.complete⟩

/-- Nothing of the invariant is about the fault flag, the draws, the outputs, the values or what is offered and held. -/
theorem Inv.unregistered {s : State} (hi : Inv s) (fault : Bool) (draws : Nat) (outs : List Output)
    (evals : List FnValue) (input : List (List Byte)) (held : List Instr) :
    Inv { s with fault := fault, draws := draws, outs := outs, evals := evals, input := input, held := held } :=
  ⟨hi.cfg_wf, hi.buf_wf, hi.wc_le, hi.hc_le, hi.dc_le, hi.written, hi.starting, hi.header, hi.payload, hi.complete⟩

/-- In `Idle` and `Sent` R28 asks nothing of the header registers, and a cursor that does not grow asks for no new byte. -/
theorem Inv.quiet {s : State} (hi : Inv s) {st : TState} {wc : Nat} {dph : Dph} (hst : st = .idle ∨ st = .sent)
    (hwc : wc ≤ s.wc)
    (starting : ∀ f k, dph = .tx f k → st = .idle ∧ k ≤ f.length ∧ 4 ≤ f.length ∧ f.length ≤ 259) :
    Inv { s with st := st, wc := wc, dph := dph } where
  cfg_wf := hi.cfg_wf
  buf_wf := hi.buf_wf
  wc_le := Nat.le_trans hwc hi.wc_le
  hc_le := hi.hc_le
  dc_le := hi.dc_le
  written k hk := hi.written k (Nat.lt_of_lt_of_le hk hwc)
  starting := starting
  header hs := by subst hs; simp at hst
  payload hs := by subst hs; simp at hst
  complete hs := by subst hs; simp at hst

theorem Inv.after_fullReset {s : State} (hi : Inv s) : Inv (fullReset s) where
  cfg_wf := hi.cfg_wf
  buf_wf := hi.buf_wf
  wc_le := Nat.zero_le _
  hc_le := Nat.zero_le _
  dc_le := Nat.zero_le _
  written _ hk := absurd hk (Nat.not_lt_zero _)
  starting _ _ hd := by cases hd
  header hs := by cases hs
  payload hs := by cases hs
  complete hs := by cases hs

theorem requestFrame_length (c : Cfg) (req : Byte) (pl : List Byte) :
    (requestFrame c req pl).length = 4 + pl.length := by
  simp [requestFrame]
  omega

theorem Inv.after_start {s : State} (hi : Inv s) (hs : s.st = .idle) (req : Byte) {pl : List Byte}
    (hpl : pl.length ≤ maxPayload) : Inv (startTransaction req pl s) := by
  refine hi.quiet (.inl hs) (Nat.zero_le _) fun f k hd => ?_
  cases hd
  have : pl.length ≤ 255 := hpl
  have len := requestFrame_length s.cfg req pl
  exact ⟨hs, Nat.zero_le _, by omega, by omega⟩

theorem Inv.after_send {s : State} (hi : Inv s) {f : List Byte} {k : Nat} (hd : s.dph = .tx f k) (hk : k < f.length) :
    Inv { s with dph := .tx f (k + 1) } := by
  obtain ⟨hs, -, hlen⟩ := hi.starting f k hd
  refine hi.quiet (.inl hs) (Nat.le_refl _) fun f' k' hd' => ?_
  cases hd'
  exact ⟨hs, hk, hlen⟩

theorem Inv.after_finish {s : State} (hi : Inv s) : Inv { s with st := .sent, dph := .ready } :=
  hi.quiet (.inr rfl) (Nat.le_refl _) fun _ _ hd => by cases hd

theorem Inv.after_harvest {s : State} (hi : Inv s) : Inv { s with st := .idle } :=
  hi.quiet (.inl rfl) (Nat.le_refl _) fun f k hd => ⟨rfl, (hi.starting f k hd).2⟩

/-! ### A delivered byte keeps the invariant -/

section
variable {s : State} (b : Byte)

/-- R103: a store at the cursor leaves the two bytes of a sync word below it. -/
theorem FrameFound.after_store (h : FrameFound s) (hw : s.hc + 2 ≤ s.wc) : FrameFound (store b s) := by
  obtain ⟨hdc, hword⟩ := h
  refine ⟨hdc, ?_⟩
  rw [store_hc, cell_store_other b s (i := s.hc) (by omega), cell_store_other b s (i := s.hc + 1) (by omega)]
  exact hword

/-- R103: a store at the cursor leaves a length byte below it. -/
theorem lengthByte_store (hw : s.hc + 4 ≤ s.wc) : lengthByte (store b s) = lengthByte s :=
  cell_store_other b s (i := s.hc + 3) (by omega)

theorem HeaderTaken.after_store (h : HeaderTaken s) (hw : s.dc ≤ s.wc) : HeaderTaken (store b s) := by
  obtain ⟨hf, hp, h0⟩ := h
  have := four_le_headerSize s.ck
  have := hf.1
  exact ⟨hf.after_store b (by omega), hp.trans (lengthByte_store b (by omega)).symm, h0⟩

/-- R22, R66: with room, the byte stored at the cursor is the one that the moved cursor asks for. -/
theorem Inv.written_store (hi : Inv s) {k : Nat} (hk : k < s.wc + 1) :
    (Memory.read (Memory.write s.buf s.wc b) k).isSome = true := by
  obtain rfl | hne := eq_or_ne k s.wc
  · simp
  · rw [read_write_other _ _ hne]
    exact hi.written k (by omega)

variable {b}

/-- R104, and R107, R108, R111 where the byte ends nothing: only the cursor and the buffer move. -/
theorem Inv.inPhase_stored (hi : Inv s) (hheader : s.st = .receivingHeader → s.wc + 1 < s.dc)
    (hpayload : s.st = .receivingPayload → s.wc + 1 < frameEnd s) :
    InPhase (advance (store b s)) s.st := by
  have hp := hi.inPhase
  cases hs : s.st with
  | idle => trivial
  | sent => trivial
  | receivingHeader =>
    rw [hs] at hp
    obtain ⟨hhc, -, hf⟩ := hp
    exact ⟨Nat.le_succ_of_le hhc, hheader hs, hf.after_store b hhc⟩
  | receivingPayload =>
    rw [hs] at hp
    obtain ⟨hhc, hdc, -, ht⟩ := hp
    exact ⟨hhc, Nat.le_succ_of_le hdc, hpayload hs, ht.after_store b hdc⟩
  | complete =>
    rw [hs] at hp
    obtain ⟨hhc, hdc, hend, ht⟩ := hp
    exact ⟨hhc, hdc, Nat.le_succ_of_le hend, ht.after_store b (Nat.le_trans hdc.le hend)⟩

/-- The word that is a sync word is the one that `ck` then names (R105, R106). -/
theorem eq_of_isSync {c : Cfg} {w : Half} (h : isSync c w = true) : w = if ckOf c w then c.syncCk else c.syncNock := by
  split
  · rename_i hck; exact eq_of_beq hck
  · rename_i hck; simpa [isSync, show ¬w = c.syncCk by simpa [ckOf] using hck] using h

/-- R105, R106: a sync word that ends at the cursor starts a header there. -/
theorem inPhase_detectSync (hs : s.st = .sent) : InPhase (advance (detectSync s)) (detectSync s).st := by
  obtain h | ⟨hw, hsync, h⟩ := detectSync_cases s
  · rw [h, hs]
    trivial
  · have size := four_le_headerSize (ckOf s.cfg (le16 (cell s (s.wc - 1)) (cell s s.wc)))
    have word := eq_of_isSync hsync
    rw [h]
    refine ⟨?_, ?_, rfl, ?_⟩
    · show s.wc - 1 + 2 ≤ s.wc + 1
      omega
    · show s.wc + 1 < s.wc - 1 + headerSize _
      omega
    · show le16 (cell s (s.wc - 1)) (cell s (s.wc - 1 + 1)) = _
      rw [Nat.sub_add_cancel hw]
      exact word

/-- R108, R110: at a header's end the length byte is taken; a frame with no payload is dropped (R109). -/
theorem Inv.inPhase_takeLength (hi : Inv s) (hs : s.st = .receivingHeader) (hd : s.dc ≤ s.wc + 1) :
    InPhase (advance (takeLength (store b s))) (takeLength (store b s)).st := by
  obtain ⟨hhc, hdc, hf⟩ := hi.header hs
  rw [takeLength_st]
  split
  · trivial
  · rename_i h0
    have hpos : 0 < (lengthByte (store b s)).toNat :=
      Nat.pos_of_ne_zero fun h => h0 (BitVec.eq_of_toNat_eq h)
    have hend : s.wc + 1 < s.dc + (lengthByte (store b s)).toNat := by omega
    have hlt : s.hc < s.dc := by omega
    exact ⟨hlt, hd, hend, hf.after_store b hhc, rfl, h0⟩

/-- R111: the last payload byte completes the frame. -/
theorem Inv.inPhase_finishPayload (hi : Inv s) (hs : s.st = .receivingPayload) :
    InPhase (advance (finishPayload (store b s))) (finishPayload (store b s)).st := by
  obtain ⟨hhc, hdc, hend, ht⟩ := hi.payload hs
  obtain ⟨hd, h⟩ | ⟨hd, h⟩ := finishPayload_cases (store b s)
  · rw [h]
    exact ⟨hhc, Nat.lt_of_le_of_lt hdc hend, hd, ht.after_store b hdc⟩
  · rw [h]
    exact hi.inPhase_stored (fun hs' => by simp [hs] at hs') fun _ => hd

/-- R104 to R111: the rule that follows a store leaves the header registers as R28 asks. -/
theorem Inv.inPhase_receiveRule {u : State} (hi : Inv s) (hu : receiveRule (store b s) = .next u) :
    InPhase (advance u) u.st := by
  obtain ⟨hs, rfl⟩ | ⟨hs, rfl⟩ | ⟨hs, hd, -, rfl⟩ | ⟨hs, hd, rfl⟩ | ⟨hs, rfl⟩ := receiveRule_cases hu
  · rw [store_st] at hs
    exact hi.inPhase_stored (fun hs' => by simp [hs'] at hs) fun hs' => by simp [hs'] at hs
  · exact inPhase_detectSync hs
  · exact hi.inPhase_takeLength hs hd
  · rw [store_st] at hs
    exact hi.inPhase_stored (fun _ => hd) fun hs' => by simp [hs] at hs'
  · exact hi.inPhase_finishPayload hs

theorem headerSize_le (ck : Bool) : headerSize ck ≤ 6 := by
  cases ck <;> decide

/-- R23, R24: a header found at the cursor keeps the ranges of its registers. -/
theorem receiveRule_hc_dc_le {u : State} (hu : receiveRule s = .next u) (hw : s.wc < CAP) (hhc : s.hc ≤ 254)
    (hdc : s.dc ≤ 260) : u.hc ≤ 254 ∧ u.dc ≤ 260 := by
  have hw' : s.wc < 256 := hw
  obtain ⟨-, rfl⟩ | ⟨-, rfl⟩ | ⟨-, -, -, rfl⟩ | ⟨-, -, rfl⟩ | ⟨-, rfl⟩ := receiveRule_cases hu
  · exact ⟨hhc, hdc⟩
  · obtain h | ⟨hw1, -, h⟩ := detectSync_cases s
    · rw [h]
      exact ⟨hhc, hdc⟩
    · have size := headerSize_le (ckOf s.cfg (le16 (cell s (s.wc - 1)) (cell s s.wc)))
      rw [h]
      dsimp only
      omega
  · exact ⟨hhc, hdc⟩
  · exact ⟨hhc, hdc⟩
  · simpa using ⟨hhc, hdc⟩

/-- R103, R112: a byte that is stored keeps the invariant. -/
theorem Inv.after_store {u : State} (hi : Inv s) (hw : s.wc < CAP) (hu : receiveRule (store b s) = .next u) :
    Inv (advance u) := by
  obtain ⟨hwc, hbuf⟩ := receiveRule_wc_buf hu
  obtain ⟨hcfg, hdph⟩ := receiveRule_cfg_dph hu
  obtain ⟨hhc, hdc⟩ := receiveRule_hc_dc_le hu hw hi.hc_le hi.dc_le
  obtain ⟨header, payload, complete⟩ := inPhase_iff.mp (hi.inPhase_receiveRule hu)
  have hidle (hs : s.st = .idle) : u.st = .idle := by
    cases (receiveRule_idle (s := store b s) (.inl hs)).symm.trans hu
    exact hs
  exact {
    cfg_wf := by rw [advance_cfg, hcfg]; exact hi.cfg_wf
    buf_wf := by rw [advance_buf, hbuf]; exact wf_write b hi.buf_wf hw
    wc_le := by rw [advance_wc, hwc]; exact hw
    hc_le := hhc
    dc_le := hdc
    written := fun k hk => by
      rw [advance_wc, hwc] at hk
      rw [advance_buf, hbuf]
      exact hi.written_store b hk
    starting := fun f k hd => by
      rw [advance_dph, hdph] at hd
      obtain ⟨hs, hlen⟩ := hi.starting f k hd
      exact ⟨hidle hs, hlen⟩
    header := header
    payload := payload
    complete := complete }

theorem Inv.after_receive {t : State} (hi : Inv s) (h : receive b s = .next t) : Inv t := by
  obtain ⟨-, rfl⟩ | ⟨-, -, rfl⟩ | ⟨-, hw, u, hu, rfl⟩ := receive_cases h
  · exact hi
  · exact hi.unregistered true ..
  · exact hi.after_store hw hu

end

/-- Every move keeps the invariant. -/
theorem Inv.after_move {i : Instr} {s t : State} (hi : Inv s) (h : Move i s t) : Inv t := by
  cases h with
  | receive _ hr => exact hi.after_receive hr
  | reset _ => exact hi.after_fullReset
  | start _ hpl hs => exact hi.after_start hs _ hpl
  | send hd hk => exact hi.after_send hd hk
  | finish _ => exact hi.after_finish
  | harvest _ => exact hi.after_harvest
  | put _ | evaluate _ | useDraws => exact hi.unregistered ..

theorem Inv.after_step {s t : State} (hi : Inv s) (h : step s = .next t) : Inv t :=
  step_keeps Inv.after_move (fun _ _ => hi.unregistered ..) h

theorem Inv.after_steps {n : Nat} {s t : State} (hi : Inv s) (h : steps n s = .next t) : Inv t := by
  induction n generalizing s with
  | zero => cases h; exact hi
  | succ n ih =>
    obtain ⟨u, hu, ht⟩ := andThen_eq_next h
    exact ih (hi.after_step hu) ht

theorem inv_powerOn {c : Cfg} (hc : c.wf = true) : Inv (State.powerOn c) where
  cfg_wf := hc
  buf_wf := wf_powerOn c
  wc_le := Nat.zero_le _
  hc_le := Nat.zero_le _
  dc_le := Nat.zero_le _
  written _ hk := absurd hk (Nat.not_lt_zero _)
  starting _ _ hd := by cases hd
  header hs := by cases hs
  payload hs := by cases hs
  complete hs := by cases hs

/-! ### The statements -/

/-- Settles O51: every move of a row keeps the invariant, and a step is the moves of one row. -/
theorem everyStepKeepsTheInvariant : Obligations.EveryStepKeepsTheInvariant := by
  unfold Obligations.EveryStepKeepsTheInvariant
  exact fun _ _ hi h => hi.after_step h

/-- Settles O52, by induction on the number of steps. -/
theorem goodRunsStayInTheInvariant : Obligations.GoodRunsStayInTheInvariant := by
  unfold Obligations.GoodRunsStayInTheInvariant
  intro n s t hi ⟨hrun, _⟩
  exact hi.after_steps hrun

/-- Settles O55: the moves of a row that delivers no byte and is not `RESET` leave the header registers. -/
theorem onlyTheReceiverAndResetWriteHeaderRegisters : Obligations.OnlyTheReceiverAndResetWriteHeaderRegisters := by
  unfold Obligations.OnlyTheReceiverAndResetWriteHeaderRegisters
  intro i s t hr hi h
  refine exec_keeps (P := fun u => u.hc = s.hc ∧ u.dc = s.dc ∧ u.plen = s.plen ∧ u.ck = s.ck) ?_ ⟨rfl, rfl, rfl, rfl⟩ h
  intro u v hu hm
  obtain ⟨h1, h2, h3, h4⟩ := hm.headerRegisters_eq hr hi
  simpa [h1, h2, h3, h4] using hu

/-- Settles O56: a row that may rewind moves the cursor to 0 or not at all, and every other row moves it only forward. -/
theorem writeCursorGoesBackOnlyToZero : Obligations.WriteCursorGoesBackOnlyToZero := by
  unfold Obligations.WriteCursorGoesBackOnlyToZero
  intro i s t h hlt
  cases hr : rewinds i with
  | true =>
    have rewound : t.wc = 0 ∨ t.wc = s.wc :=
      exec_keeps (P := fun u => u.wc = 0 ∨ u.wc = s.wc)
        (fun hu hm => (hm.wc_of_rewinds hr).elim .inl fun e => e ▸ hu) (.inr rfl) h
    exact ⟨rewound.resolve_right (Nat.ne_of_lt hlt), rewinds_iff.mp hr⟩
  | false =>
    have forward : s.wc ≤ t.wc :=
      exec_keeps (P := fun u => s.wc ≤ u.wc) (fun hu hm => Nat.le_trans hu (hm.wc_le hr)) (Nat.le_refl _) h
    exact absurd hlt (Nat.not_lt_of_le forward)

/-- Settles O57: no move writes the parameters, and what is offered and held is not among them. -/
theorem parametersNeverChange : Obligations.ParametersNeverChange := by
  unfold Obligations.ParametersNeverChange
  intro s t h
  exact step_keeps (P := fun u => u.cfg = s.cfg) (fun hu hm => hm.cfg_eq.trans hu) (fun _ _ => rfl) h

/-- Settles O48: `RESET` writes the values that power-on gave, and no index is written yet. -/
theorem powerOnState : Obligations.PowerOnState := by
  unfold Obligations.PowerOnState
  intro c
  have reset : exec .reset (State.powerOn c) = .next (State.powerOn c) := rfl
  exact ⟨reset, rfl, rfl, rfl, rfl, rfl, rfl, rfl, rfl, fun _ => rfl⟩

/-- Settles O50: profile P is admitted, so the reset state is the power-on state of an admitted record. -/
theorem invariantHoldsAtReset : Obligations.InvariantHoldsAtReset := by
  unfold Obligations.InvariantHoldsAtReset
  have profileP_wf : Config.profileP.wf = true := by decide
  exact ⟨fun _ hc => inv_powerOn hc, inv_powerOn profileP_wf⟩

end Sys2Proof.Machine
end

section
/-! The step as the selection makes it (20_memory.md R56, R57, log entry 4): an equation for each way the selection can go. -/

namespace Sys2Proof.Machine

/-! ### What waits -/

/-- Whether an event waits is a question to the dispatcher phase alone (R154, R156). -/
theorem waits_congr {s t : State} (h : t.dph = s.dph) : waits t = waits s := by
  funext i
  cases i with
  | poll d => simp [waits, h]
  | txack => simp [waits, h]
  | _ => rfl

theorem waits_withFetchWord (s : State) (nbits w : Nat) : waits (s.withFetchWord nbits w) = waits s :=
  waits_congr rfl

theorem takeReady_eq_none_iff {s : State} {is : List Instr} :
    takeReady s is = none ↔ ∀ i ∈ is, waits s i = true := by
  induction is with
  | nil => simp [takeReady]
  | cons i is ih =>
    rw [takeReady, List.forall_mem_cons, ← ih]
    cases waits s i with
    | false => simp
    | true => cases takeReady s is <;> simp

/-- Placing a word takes away the held events that would run before it. -/
theorem takeReady_withFetchWord (s : State) (nbits w : Nat) :
    takeReady (s.withFetchWord nbits w) (s.withFetchWord nbits w).held = none := by
  refine takeReady_eq_none_iff.mpr fun i hi => ?_
  rw [waits_withFetchWord]
  exact (List.mem_filter.mp hi).2

/-! ### The word that is offered -/

theorem decodeWord_of_ok {w rest : List Byte} {i : Instr} (h : decode w = .ok (i, rest)) : decodeWord w = .ok i := by
  simp [decodeWord, h]

theorem decodeWord_of_error {w : List Byte} {e : DecodeRefusal} (h : decode w = .error e) : decodeWord w = .error e := by
  simp [decodeWord, h]

theorem decodeWord_of_tableWord {nbits w : Nat} {i : Instr} (h : decodeTableWord nbits w = some i) :
    decodeWord (tableBytes nbits w) = .ok i := by
  unfold decodeTableWord at h
  split at h
  · rename_i hw
    rw [hw, Option.some.inj h]
  · cases h

/-! ### One equation per selection -/

theorem step_of_held {s : State} {i : Instr} {is : List Instr} (h : takeReady s s.held = some (i, is)) :
    step s = exec i { s with held := is } := by
  simp [step, select, h]

section
variable {s : State} (hr : takeReady s s.held = none)
include hr

section
variable {w : List Byte} {ws : List (List Byte)} (hin : s.input = w :: ws)
include hin

theorem step_of_offered {i : Instr} (hw : decodeWord w = .ok i) (hi : waits s i = false) :
    step s = exec i { s with input := ws } := by
  simp [step, select, hr, hin, hw, hi]

theorem step_of_waiting {i : Instr} (hw : decodeWord w = .ok i) (hi : waits s i = true) :
    step s = .next { s with input := ws, held := s.held ++ [i] } := by
  simp [step, select, hr, hin, hw, hi]

theorem step_of_undecodable {e : DecodeRefusal} (hw : decodeWord w = .error e) :
    step s = .refused (.undecodable e) := by
  simp [step, select, hr, hin, hw]

end

theorem step_of_allSent (hin : s.input = []) (ha : allSent s.dph = true) : step s = exec .setSent s := by
  simp [step, select, hr, hin, ha]

theorem step_of_nothing (hin : s.input = []) (ha : allSent s.dph = false) : step s = .next s := by
  simp [step, select, hr, hin, ha]

end

/-! ### The statements -/

/-- Settles O59: the equations of the step, one for each way the selection can go. -/
theorem stepRunsTheDecodedInstruction : Obligations.StepRunsTheDecodedInstruction := by
  unfold Obligations.StepRunsTheDecodedInstruction
  refine ⟨fun s w rest ws i hr hin hw => ?offered, fun _ _ _ => step_of_held, fun s w ws e hr hin hw => ?undecodable,
    fun s hr hin => ?nothing⟩
  case offered => exact ⟨step_of_offered hr hin (decodeWord_of_ok hw), step_of_waiting hr hin (decodeWord_of_ok hw)⟩
  case undecodable => exact step_of_undecodable hr hin (decodeWord_of_error hw)
  case nothing => exact ⟨step_of_allSent hr hin, step_of_nothing hr hin⟩

/-- Settles O60: no held event is enabled after the placing, so the placed word is the one that is offered and runs. -/
theorem placedWordRunsNext : Obligations.PlacedWordRunsNext := by
  unfold Obligations.PlacedWordRunsNext
  intro s nbits w i hw hi
  have enabled : waits (s.withFetchWord nbits w) i = false := by rwa [waits_withFetchWord]
  exact step_of_offered (takeReady_withFetchWord s nbits w) rfl (decodeWord_of_tableWord hw) enabled

end Sys2Proof.Machine
end

section
/-! The buffer as the moves leave it (20_memory.md R50, R51, R55): which bytes a row can write, and which reads stay inside. -/

namespace Sys2Proof.Machine

/-! ### What a move writes -/

/-- R103, R112: a delivered byte is written at the old write cursor or nowhere, and the cursor then stands above it. -/
theorem receive_cell_eq {b : Byte} {s t : State} (h : receive b s = .next t) {a : Nat} (ha : a < s.wc ∨ t.wc ≤ a) :
    cell t a = cell s a := by
  obtain ⟨-, rfl⟩ | ⟨-, -, rfl⟩ | ⟨-, -, u, hu, rfl⟩ := receive_cases h
  · rfl
  · rfl
  · obtain ⟨hwc, hbuf⟩ := receiveRule_wc_buf hu
    rw [advance_wc, hwc, store_wc] at ha
    have other : a ≠ s.wc := by omega
    calc cell (advance u) a = cell (store b s) a := cell_congr hbuf a
      _ = cell s a := cell_store_other b s other

/-- R51: a move that delivers no byte leaves the buffer. -/
theorem Move.buf_eq {i : Instr} {s t : State} (hr : isReceive i = false) (h : Move i s t) : t.buf = s.buf := by
  cases h with
  | receive hr' _ => simp [hr] at hr'
  | _ => rfl

/-- R51: what a move writes lies between the old and the new write cursor. -/
theorem Move.cell_eq {i : Instr} {s t : State} (h : Move i s t) {a : Nat} (ha : a < s.wc ∨ t.wc ≤ a) :
    cell t a = cell s a := by
  cases h with
  | receive _ hr => exact receive_cell_eq hr ha
  | _ => rfl

theorem rewinds_of_isReceive {i : Instr} (h : isReceive i = true) : rewinds i = false := by
  by_contra hr
  simp [isReceive_of_rewinds (Bool.eq_true_of_not_eq_false hr)] at h

theorem exec_buf_eq {i : Instr} {s t : State} (hr : isReceive i = false) (h : exec i s = .next t) : t.buf = s.buf :=
  exec_keeps (P := fun u => u.buf = s.buf) (fun hu hm => (hm.buf_eq hr).trans hu) rfl h

/-- R51 for the rows that deliver bytes: the cursor only moves forward, so each byte goes between its two ends. -/
theorem exec_cell_eq_of_isReceive {i : Instr} {s t : State} (hr : isReceive i = true) (h : exec i s = .next t) {a : Nat}
    (ha : a < s.wc ∨ t.wc ≤ a) : cell t a = cell s a := by
  have written : s.wc ≤ t.wc ∧ ∀ a, a < s.wc ∨ t.wc ≤ a → cell t a = cell s a := by
    refine exec_keeps (P := fun u => s.wc ≤ u.wc ∧ ∀ a, a < s.wc ∨ u.wc ≤ a → cell u a = cell s a) ?_
      ⟨Nat.le_refl _, fun _ _ => rfl⟩ h
    rintro u v ⟨hwc, hcell⟩ hm
    have forward : u.wc ≤ v.wc := hm.wc_le (rewinds_of_isReceive hr)
    exact ⟨Nat.le_trans hwc forward, fun a ha => (hm.cell_eq (by omega)).trans (hcell a (by omega))⟩
  exact written.2 a ha

/-- R28 for a whole row. -/
theorem Inv.after_exec {i : Instr} {s t : State} (hi : Inv s) (h : exec i s = .next t) : Inv t :=
  exec_keeps Inv.after_move hi h

/-! ### Outcomes that are no stop -/

/-- The machine does not stop on a fault: it answers a next state or refuses. -/
def FaultFree (o : Host.Outcome State Fault Refusal) : Prop := ∀ r, o ≠ .fault r

theorem faultFree_next (t : State) : FaultFree (.next t) := fun _ h => by cases h

theorem faultFree_refused (r : Refusal) : FaultFree (.refused r) := fun _ h => by cases h

theorem FaultFree.admitted {o : Host.Outcome State Fault Refusal} (h : FaultFree o) (ok : Bool) :
    FaultFree (admitted ok o) := by
  cases ok with
  | true => exact h
  | false => exact faultFree_refused _

theorem FaultFree.ite {o o' : Host.Outcome State Fault Refusal} {c : Prop} [Decidable c] (h : c → FaultFree o)
    (h' : ¬c → FaultFree o') : FaultFree (if c then o else o') := by
  split
  · exact h ‹_›
  · exact h' ‹_›

theorem FaultFree.andThen {o : Host.Outcome State Fault Refusal} {f : State → Host.Outcome State Fault Refusal}
    (h : FaultFree o) (hf : ∀ u, o = .next u → FaultFree (f u)) : FaultFree (andThen o f) := by
  cases o with
  | next u => exact hf u rfl
  | fault r => exact absurd rfl (h r)
  | refused r => exact faultFree_refused r

/-- R50: reads below an index that exists do not stop. -/
theorem faultFree_within {top : Nat} (h : top ≤ CAP) (t : State) : FaultFree (within top (.next t)) := by
  rw [within_of_le _ h]
  exact faultFree_next t

/-! ### The receiver stays inside the buffer -/

theorem Inv.faultFree_receive {s : State} (hi : Inv s) (b : Byte) : FaultFree (receive b s) := by
  refine .ite (fun _ => faultFree_next _) fun _ => .ite (fun _ => faultFree_next _) fun hw => ?_
  obtain ⟨u, hu⟩ := hi.receiveRule_store_next (Nat.lt_of_not_le hw) b
  rw [hu]
  exact faultFree_next _

theorem Inv.faultFree_receiveAll {s : State} (hi : Inv s) : ∀ bs : List Byte, FaultFree (receiveAll bs s)
  | [] => faultFree_next s
  | b :: bs => (hi.faultFree_receive b).andThen fun _ hu => (hi.after_receive hu).faultFree_receiveAll bs

/-! ### The harvest stays inside the buffer -/

/-- R136(d): the checksum of a frame that has the field reads no further than the frame's end. -/
theorem Inv.checksumTop_le {s : State} (hi : Inv s) (hs : s.st = .complete) (hck : s.ck = true) :
    checksumTop s ≤ frameEnd s := by
  obtain ⟨-, hend, -, ⟨hdc, -⟩, hplen, -⟩ := hi.complete hs
  have data : s.dc = s.hc + 6 := by rw [hdc, hck]; rfl
  have payload : frameEnd s = s.dc + (lengthByte s).toNat := by rw [← hplen]; rfl
  unfold checksumTop
  split <;> omega

/-- R55, R158: whatever a harvest reads lies inside the frame. -/
theorem Inv.harvestTop_le {s : State} (hi : Inv s) (hs : s.st = .complete) (d : Descriptor) :
    harvestTop d s ≤ frameEnd s := by
  obtain ⟨-, hend, -, ⟨hdc, -⟩, -⟩ := hi.complete hs
  have size := four_le_headerSize s.ck
  refine Nat.max_le.mpr ⟨by omega, Nat.max_le.mpr ⟨?checksum, ?decoder⟩⟩
  case checksum =>
    split
    · exact hi.checksumTop_le hs ‹_›
    · exact Nat.zero_le _
  case decoder =>
    split
    · exact decodeTop_le d.dk s
    · exact Nat.zero_le _

theorem Inv.faultFree_harvestWith {s : State} (hi : Inv s) (hs : s.st = .complete) (d : Descriptor) :
    FaultFree (harvestWith d s) := by
  obtain ⟨-, -, hend, -⟩ := hi.complete hs
  exact faultFree_within (Nat.le_trans (hi.harvestTop_le hs d) (Nat.le_trans hend hi.wc_le)) _

/-! ### The dispatcher and the rows that complete a poll -/

theorem faultFree_sendByte (s : State) : FaultFree (sendByte s) := by
  unfold sendByte
  split
  · exact faultFree_next _
  · split <;> exact faultFree_next _

theorem faultFree_sendBytes (n : Nat) (s : State) : FaultFree (sendBytes n s) := by
  induction n generalizing s with
  | zero => exact faultFree_next s
  | succ n ih => exact (faultFree_sendByte s).andThen fun u _ => ih u

theorem faultFree_finishStart (s : State) : FaultFree (finishStart s) :=
  .ite (fun _ => faultFree_next _) fun _ => faultFree_next _

theorem Inv.faultFree_pollWith {s : State} (hi : Inv s) (d : Descriptor) : FaultFree (pollWith d s) := by
  refine FaultFree.admitted ?_ _
  split
  · exact faultFree_next _
  · refine .ite (fun _ => faultFree_next _) fun _ => ?_
    split
    · exact faultFree_next _
    · exact faultFree_next _
    · exact faultFree_next _
    · exact faultFree_next _
    · exact hi.faultFree_harvestWith ‹_› d

theorem Inv.faultFree_completeWith {s : State} (hi : Inv s) (k : ResultKind) (d : Descriptor) :
    FaultFree (completeWith k d s) := by
  refine .admitted (.ite (fun _ => ?_) fun _ => faultFree_next _) _
  unfold completionStep
  split
  · exact faultFree_finishStart s
  · exact hi.faultFree_pollWith d

theorem faultFree_execStartReset (d : Descriptor) (s : State) : FaultFree (execStartReset d s) :=
  .admitted (.ite (fun _ => faultFree_next _) fun _ => faultFree_next _) _

theorem Inv.faultFree_execHarvest {s : State} (hi : Inv s) (d : Descriptor) : FaultFree (execHarvest d s) :=
  .admitted (.ite (fun hs => hi.faultFree_harvestWith hs.2.2 d) fun _ => faultFree_next _) _

theorem faultFree_execFrameRequest (req : Byte) (pl : List Byte) (s : State) : FaultFree (execFrameRequest req pl s) :=
  .admitted
    (.ite (fun _ => (faultFree_sendBytes _ _).andThen fun u _ => faultFree_finishStart u) fun _ => faultFree_next _) _

/-! ### The other rows -/

theorem Inv.faultFree_execFrameReply {s : State} (hi : Inv s) (ty : Byte) (ck : Option Half) (pl : List Byte) :
    FaultFree (execFrameReply ty ck pl s) :=
  .ite (fun _ => hi.faultFree_receiveAll _) fun _ => faultFree_refused _

/-- R180: the decoders that only compute from the registers read no byte. -/
theorem faultFree_evaluateDecoder {k : DecodeKind} (hk : k ≠ .tlv) (s : State) : FaultFree (evaluateDecoder k s) := by
  have reads_nothing : decodeTop k s = 0 := by
    cases k with
    | fixed | array _ => rfl
    | tlv => exact absurd rfl hk
  exact (faultFree_within (by rw [reads_nothing]; exact Nat.zero_le _) _).admitted _

theorem faultFree_statusIs (k : TState) (s : State) : FaultFree (statusIs k s) :=
  .ite (fun _ => faultFree_next _) fun _ => faultFree_next _

/-- R55: from a state of the invariant only the three rows that run a reading function on its own can stop (log entry 8). -/
theorem Inv.faultFree_exec {s : State} (hi : Inv s) : ∀ i : Instr, i ≠ .verifyChecksum → i ≠ .decodeTlv → i ≠ .dkTlv →
    FaultFree (exec i s)
  -- the input events
  | .rx b, _, _, _ => hi.faultFree_receive b
  | .poll d, _, _, _ => hi.faultFree_pollWith d
  | .reset, _, _, _ | .view _, _, _, _ | .status, _, _, _ => faultFree_next _
  -- the dispatcher's steps
  | .txack, _, _, _ | .txByte, _, _, _ => faultFree_sendByte s
  | .startReset d, _, _, _ => faultFree_execStartReset d s
  | .setSent, _, _, _ => faultFree_finishStart s
  | .harvest d, _, _, _ => hi.faultFree_execHarvest d
  -- the functions and the decoder kinds
  | .encodeRequest _ _, _, _, _ => (faultFree_next _).admitted _
  | .decodeErrcode, _, _, _ => faultFree_next _
  | .decodeFixed, _, _, _ | .dkFixed, _, _, _ => faultFree_evaluateDecoder (k := .fixed) (by simp) s
  | .decodeArray rs, _, _, _ | .dkArray rs, _, _, _ => faultFree_evaluateDecoder (k := .array rs) (by simp) s
  | .verifyChecksum, h, _, _ => absurd rfl h
  | .decodeTlv, _, h, _ => absurd rfl h
  | .dkTlv, _, _, h => absurd rfl h
  -- the wire
  | .frameRequest req pl, _, _, _ => faultFree_execFrameRequest req pl s
  | .frameReply ty ck pl, _, _, _ => hi.faultFree_execFrameReply ty ck pl
  | .syncNock, _, _, _ | .syncCk, _, _, _ => hi.faultFree_receiveAll _
  | .typeError, _, _, _ | .typeGetVersion, _, _, _ | .typeVersion, _, _, _ => hi.faultFree_receive _
  | .tagVector, _, _, _ | .tagIntersection, _, _, _ | .tagBarcode, _, _, _ => hi.faultFree_receive _
  -- the result kinds and the status codes
  | .ok d, _, _, _ | .busy d, _, _, _ | .badChecksum d, _, _, _ => hi.faultFree_completeWith _ d
  | .typeErrorResult d, _, _, _ | .sensorError d, _, _, _ | .faultResult d, _, _, _ => hi.faultFree_completeWith _ d
  | .stIdle, _, _, _ | .stSent, _, _, _ | .stReceivingHeader, _, _, _ | .stReceivingPayload, _, _, _
  | .stComplete, _, _, _ => faultFree_statusIs _ s
  -- the rows that are refused
  | .reservedEvent6, _, _, _ | .reservedEvent7, _, _, _ | .reservedDk3, _, _, _ | .timeout, _, _, _
  | .reservedResult7, _, _, _ => faultFree_refused _

/-! ### The statements -/

/-- Settles O54: a row that delivers no byte leaves the whole buffer, and one that does only moves the cursor forward. -/
theorem onlyReceivedBytesWriteTheBuffer : Obligations.OnlyReceivedBytesWriteTheBuffer := by
  unfold Obligations.OnlyReceivedBytesWriteTheBuffer
  intro i s t h
  refine ⟨fun hr => exec_buf_eq hr h, fun a ha => ?_⟩
  cases hr : isReceive i with
  | false => exact cell_congr (exec_buf_eq hr h) a
  | true => exact exec_cell_eq_of_isReceive hr h ha

/-- Settles O53: a receive and a harvest in a state of the invariant read only inside the buffer, and the invariant, which
every row keeps, bounds what is written. -/
theorem noInstructionReadsOrWritesPastTheBuffer : Obligations.NoInstructionReadsOrWritesPastTheBuffer := by
  unfold Obligations.NoInstructionReadsOrWritesPastTheBuffer
  refine ⟨fun i s r hi h1 h2 h3 => hi.faultFree_exec i h1 h2 h3 r, fun i s t hi h => ?_⟩
  have kept := hi.after_exec h
  exact ⟨kept.buf_wf, kept.wc_le, fun a ha => read_of_wfFrom kept.buf_wf (.inr ha)⟩

end Sys2Proof.Machine
end

section
/-! The decoder and the encoder of words as each other's inverse (30_encoding.md R91 to R93): the laws of the parsers
put together over the rows. -/

namespace Sys2Proof

open Sys2Proof.Machine (loByte hiByte loByte_le16 hiByte_le16 le16_bytes le16)

/-! ### The operands of a reply frame -/

theorem takeCkField_append (ck : Option Half) (rest : List Byte) :
    takeCkField (ckFieldBytes ck ++ rest) = .ok (ck, rest) := by
  cases ck with
  | none => rfl
  | some c =>
    show (.ok (some (le16 (loByte c) (hiByte c)), rest) : Parsed (Option Half)) = _
    rw [le16_bytes]

theorem takeCkField_eq_ok {bs r : List Byte} {ck : Option Half} (h : takeCkField bs = .ok (ck, r)) :
    bs = ckFieldBytes ck ++ r := by
  unfold takeCkField at h
  split at h
  · split at h
    · rename_i hc
      cases h
      rw [byte_eq_of_toNat hc]
      rfl
    · rename_i hc
      split at h
      · rename_i lo hi r'
        cases h
        rw [byte_eq_of_toNat hc]
        show _ = [1, loByte (le16 lo hi), hiByte (le16 lo hi)] ++ r
        rw [loByte_le16, hiByte_le16]
        rfl
      · cases h
    · cases h
  · cases h

theorem takeReply_append {pl : List Byte} (ty : Byte) (ck : Option Half) (rest : List Byte)
    (h : pl.length ≤ maxPayload) :
    takeReply (ty :: (ckFieldBytes ck ++ payloadBytes pl) ++ rest) = .ok ((ty, ck, pl), rest) := by
  simp only [List.cons_append, List.append_assoc, takeReply, takeCkField_append, takePayload_append _ h, mapParsed]

theorem takeReply_eq_ok {bs r : List Byte} {q : Byte × Option Half × List Byte} (h : takeReply bs = .ok (q, r)) :
    q.2.2.length ≤ maxPayload ∧ bs = q.1 :: (ckFieldBytes q.2.1 ++ payloadBytes q.2.2) ++ r := by
  unfold takeReply at h
  split at h
  · split at h
    · cases h
    · rename_i hck
      obtain ⟨pl, hpl, rfl⟩ := mapParsed_eq_ok h
      obtain ⟨hlen, rfl⟩ := takePayload_eq_ok hpl
      rw [takeCkField_eq_ok hck]
      exact ⟨hlen, by simp⟩
  · cases h

/-! ### From the instruction to its word and back -/

theorem mapParsed_of_ok {α β : Type} {p : Parsed α} {a : α} {r : List Byte} (f : α → β) (h : p = .ok (a, r)) :
    mapParsed f p = .ok (f a, r) := by
  rw [h, mapParsed]

/-- Each row's first byte selects the parser of the operands that follow it. -/
theorem decode_encode (rest : List Byte) : ∀ i : Instr, i.wf = true → decode (encode i ++ rest) = .ok (i, rest)
  -- a descriptor
  | .poll _, h => mapParsed_of_ok _ (takeDescriptor_append rest h)
  | .startReset _, h => mapParsed_of_ok _ (takeDescriptor_append rest h)
  | .harvest _, h => mapParsed_of_ok _ (takeDescriptor_append rest h)
  | .ok _, h => mapParsed_of_ok _ (takeDescriptor_append rest h)
  | .busy _, h => mapParsed_of_ok _ (takeDescriptor_append rest h)
  | .badChecksum _, h => mapParsed_of_ok _ (takeDescriptor_append rest h)
  | .typeErrorResult _, h => mapParsed_of_ok _ (takeDescriptor_append rest h)
  | .sensorError _, h => mapParsed_of_ok _ (takeDescriptor_append rest h)
  | .faultResult _, h => mapParsed_of_ok _ (takeDescriptor_append rest h)
  -- a payload
  | .encodeRequest req _, h => mapParsed_of_ok _ (takeRequest_append req rest (of_decide_eq_true h))
  | .frameRequest req _, h => mapParsed_of_ok _ (takeRequest_append req rest (of_decide_eq_true h))
  | .frameReply ty ck _, h => mapParsed_of_ok _ (takeReply_append ty ck rest (of_decide_eq_true h))
  -- a record size
  | .decodeArray _, h => mapParsed_of_ok _ (takeRecordSize_cons rest h)
  | .dkArray _, h => mapParsed_of_ok _ (takeRecordSize_cons rest h)
  -- one byte, or none
  | .rx _, _ | .view _, _ => rfl
  | .txack, _ | .reset, _ | .status, _ | .reservedEvent6, _ | .reservedEvent7, _ => rfl
  | .txByte, _ | .setSent, _ | .verifyChecksum, _ | .decodeFixed, _ | .decodeTlv, _ | .decodeErrcode, _ => rfl
  | .syncNock, _ | .syncCk, _ | .typeError, _ | .typeGetVersion, _ | .typeVersion, _ => rfl
  | .tagVector, _ | .tagIntersection, _ | .tagBarcode, _ | .dkFixed, _ | .dkTlv, _ | .reservedDk3, _ => rfl
  | .timeout, _ | .reservedResult7, _ => rfl
  | .stIdle, _ | .stSent, _ | .stReceivingHeader, _ | .stReceivingPayload, _ | .stComplete, _ => rfl

/-- The word of a poll without a payload. -/
theorem decode_poll_nil (req exp : Byte) {dk : DecodeKind} (h : dk.wf = true) (r : List Byte) :
    decode (0x02 :: req :: exp :: (kindBytes dk ++ 0x00 :: 0x00 :: r))
      = .ok (.poll { req := req, pl := [], exp := exp, dk := dk }, r) := by
  simpa [encode, descriptorBytes, payloadBytes]
    using decode_encode r (.poll { req := req, pl := [], exp := exp, dk := dk }) h

/-! ### From a word to the instruction and back -/

/-- What `p` answers, if anything, is a well-formed instruction whose word and the rest are `bs`. -/
def Reads (bs : List Byte) (p : Parsed Instr) : Prop :=
  ∀ i rest, p = .ok (i, rest) → i.wf = true ∧ encode i ++ rest = bs

theorem reads_error (bs : List Byte) (e : DecodeRefusal) : Reads bs (.error e) := fun _ _ h => by cases h

section
variable {op : Byte} {n : Nat} (hop : op.toNat = n) (r : List Byte)
include hop

/-- A row of one byte. -/
theorem reads_bare {i : Instr} (hwf : i.wf = true) (henc : encode i = [BitVec.ofNat 8 n]) :
    Reads (op :: r) (.ok (i, r)) := by
  rintro _ _ ⟨⟩
  exact ⟨hwf, by rw [henc, byte_eq_of_toNat hop]; rfl⟩

/-- A row with operands: its parser takes admitted operands, from the bytes that the encoder writes for them. -/
theorem reads_operands {α : Type} {take : List Byte → Parsed α} {f : α → Instr}
    (h : ∀ {a : α} {r' : List Byte}, take r = .ok (a, r') →
      (f a).wf = true ∧ encode (f a) ++ r' = BitVec.ofNat 8 n :: r) :
    Reads (op :: r) (mapParsed f (take r)) := by
  intro i rest hi
  obtain ⟨a, ha, rfl⟩ := mapParsed_eq_ok hi
  rw [byte_eq_of_toNat hop]
  exact h ha

theorem reads_byte {f : Byte → Instr} (hf : ∀ b, (f b).wf = true ∧ encode (f b) = [BitVec.ofNat 8 n, b]) :
    Reads (op :: r) (mapParsed f (takeByte r)) :=
  reads_operands hop r fun {b _} h => ⟨(hf b).1, by rw [(hf b).2, takeByte_eq_ok h]; rfl⟩

theorem reads_recordSize {f : Byte → Instr}
    (hf : ∀ rs, (f rs).wf = (rs != 0) ∧ encode (f rs) = [BitVec.ofNat 8 n, rs]) :
    Reads (op :: r) (mapParsed f (takeRecordSize r)) :=
  reads_operands hop r fun {rs _} h => by
    obtain ⟨hwf, hr⟩ := takeRecordSize_eq_ok h
    exact ⟨(hf rs).1.trans hwf, by rw [(hf rs).2, hr]; rfl⟩

theorem reads_descriptor {f : Descriptor → Instr}
    (hf : ∀ d, (f d).wf = d.wf ∧ encode (f d) = BitVec.ofNat 8 n :: descriptorBytes d) :
    Reads (op :: r) (mapParsed f (takeDescriptor r)) :=
  reads_operands hop r fun {d _} h => by
    obtain ⟨hwf, hr⟩ := takeDescriptor_eq_ok h
    exact ⟨(hf d).1.trans hwf, by rw [(hf d).2, hr]; rfl⟩

theorem reads_request {f : Byte × List Byte → Instr}
    (hf : ∀ q, (f q).wf = decide (q.2.length ≤ maxPayload) ∧
      encode (f q) = BitVec.ofNat 8 n :: q.1 :: payloadBytes q.2) :
    Reads (op :: r) (mapParsed f (takeRequest r)) :=
  reads_operands hop r fun {q _} h => by
    obtain ⟨hlen, hr⟩ := takeRequest_eq_ok h
    exact ⟨(hf q).1.trans (decide_eq_true hlen), by rw [(hf q).2, hr]; rfl⟩

theorem reads_reply {f : Byte × Option Half × List Byte → Instr}
    (hf : ∀ q, (f q).wf = decide (q.2.2.length ≤ maxPayload) ∧
      encode (f q) = BitVec.ofNat 8 n :: q.1 :: (ckFieldBytes q.2.1 ++ payloadBytes q.2.2)) :
    Reads (op :: r) (mapParsed f (takeReply r)) :=
  reads_operands hop r fun {q _} h => by
    obtain ⟨hlen, hr⟩ := takeReply_eq_ok h
    exact ⟨(hf q).1.trans (decide_eq_true hlen), by rw [(hf q).2, hr]; rfl⟩

end

/-- The cases stand in the order of the decoder's rows, which the first byte selects. -/
theorem reads_decode_cons (op : Byte) (r : List Byte) : Reads (op :: r) (decode (op :: r)) := by
  rw [decode]
  split
  -- RX, VIEW
  case h_1 _ hop | h_5 _ hop => exact reads_byte hop r fun _ => ⟨rfl, rfl⟩
  -- DECODE_ARRAY, DK_ARRAY
  case h_16 _ hop | h_30 _ hop => exact reads_recordSize hop r fun _ => ⟨rfl, rfl⟩
  -- POLL, START_RESET, HARVEST, and the result kinds
  case h_3 _ hop | h_9 _ hop | h_12 _ hop => exact reads_descriptor hop r fun _ => ⟨rfl, rfl⟩
  case h_33 _ hop | h_34 _ hop | h_35 _ hop | h_36 _ hop | h_37 _ hop | h_38 _ hop =>
    exact reads_descriptor hop r fun _ => ⟨rfl, rfl⟩
  -- ENCODE_REQUEST, FRAME_REQUEST
  case h_13 _ hop | h_19 _ hop => exact reads_request hop r fun _ => ⟨rfl, rfl⟩
  -- FRAME_REPLY
  case h_20 _ hop => exact reads_reply hop r fun _ => ⟨rfl, rfl⟩
  -- no row
  case h_46 => exact reads_error _ _
  -- the rows without operands
  all_goals exact reads_bare ‹_› r rfl rfl

/-! ### The statements -/

/-- Settles O1: the parsers read what the encoder wrote, row by row. -/
theorem decodeOfEncodeIsTheInstruction : Obligations.DecodeOfEncodeIsTheInstruction := by
  unfold Obligations.DecodeOfEncodeIsTheInstruction
  exact fun i rest h => decode_encode rest i h

/-- Settles O2: the empty word is refused, and every other is read by the row of its first byte. -/
theorem encodeOfDecodeIsTheWord : Obligations.EncodeOfDecodeIsTheWord := by
  unfold Obligations.EncodeOfDecodeIsTheWord
  intro bs i rest h
  cases bs with
  | nil => cases h
  | cons op r => exact reads_decode_cons op r i rest h

/-- Settles O3: what is accepted is the word of the named instruction, and what is refused is refused by the parser of
the kind or of the payload length. -/
theorem eventCodesDecodeAsTheSpecNumbersThem : Obligations.EventCodesDecodeAsTheSpecNumbersThem := by
  unfold Obligations.EventCodesDecodeAsTheSpecNumbersThem
  refine ⟨?rx, ?txack, ?fixed, ?array, ?tlv, ?reset, ?view, ?status, ?kind3, ?array0, ?longPayload⟩
  case rx => exact fun b r => decode_encode r (.rx b) rfl
  case txack => exact fun r => decode_encode r .txack rfl
  case fixed => exact fun req exp r => decode_poll_nil req exp (dk := .fixed) rfl r
  case array => exact fun req exp r => decode_poll_nil req exp (dk := .array 14) rfl r
  case tlv => exact fun req exp r => decode_poll_nil req exp (dk := .tlv) rfl r
  case reset => exact fun r => decode_encode r .reset rfl
  case view => exact fun a r => decode_encode r (.view a) rfl
  case status => exact fun r => decode_encode r .status rfl
  case kind3 => exact fun _ _ _ => rfl
  case array0 => exact fun _ _ _ => rfl
  case longPayload => exact fun _ _ _ => rfl

/-- Settles O49: the codes by evaluation, and a result row's first byte is 0x30 with the row's code in its low bits. -/
theorem resultCodesAreTheSpecsNumbers : Obligations.ResultCodesAreTheSpecsNumbers := by
  unfold Obligations.ResultCodesAreTheSpecsNumbers
  refine ⟨by decide, ⟨fun _ => rfl, rfl, rfl, rfl, fun _ => rfl, rfl⟩, fun k => ?noOther, fun d k => ?word, rfl, rfl⟩
  case noOther => cases k <;> decide
  case word => cases k <;> exact ⟨rfl, rfl⟩

end Sys2Proof
end

section
/-! What is refused (30_encoding.md R91 to R93, R96, R15): the reserved rows always, operands that are not admitted before
any test, and nothing else. -/

namespace Sys2Proof.Machine

/-! ### Operands that are not admitted -/

theorem admitted_of_false (o : Host.Outcome State Fault Refusal) {ok : Bool} (h : ok = false) :
    admitted ok o = .refused .badDescriptor := by
  rw [h, admitted, if_neg (by simp)]

/-- R92. -/
theorem not_wf_of_long_or_array_zero {d : Descriptor} (h : 255 < d.pl.length ∨ d.dk = .array 0) : d.wf = false := by
  obtain h | h := h
  · simp [Descriptor.wf, maxPayload, Nat.not_le_of_lt h]
  · simp [Descriptor.wf, DecodeKind.wf, h]

/-- R182. -/
theorem evaluateDecoder_of_not_wf {k : DecodeKind} (h : k.wf = false) (s : State) :
    evaluateDecoder k s = .refused .badDescriptor :=
  admitted_of_false _ h

/-! ### Outcomes that are no refusal -/

/-- The machine gives the input a meaning: it answers a next state or stops with a fault. -/
def Meaningful (o : Host.Outcome State Fault Refusal) : Prop := ∀ r, o ≠ .refused r

theorem meaningful_next (t : State) : Meaningful (.next t) := fun _ h => by cases h

theorem meaningful_within (top : Nat) (t : State) : Meaningful (within top (.next t)) := by
  unfold within
  split
  · exact meaningful_next t
  · exact fun _ h => by cases h

theorem Meaningful.admitted {o : Host.Outcome State Fault Refusal} (h : Meaningful o) {ok : Bool} (hok : ok = true) :
    Meaningful (admitted ok o) := by
  rwa [admitted_of o hok]

theorem Meaningful.ite {o o' : Host.Outcome State Fault Refusal} {c : Prop} [Decidable c] (h : Meaningful o)
    (h' : Meaningful o') : Meaningful (if c then o else o') := by
  split
  · exact h
  · exact h'

theorem Meaningful.andThen {o : Host.Outcome State Fault Refusal} {f : State → Host.Outcome State Fault Refusal}
    (h : Meaningful o) (hf : ∀ u, Meaningful (f u)) : Meaningful (andThen o f) := by
  cases o with
  | next u => exact hf u
  | fault r => exact fun _ h => by cases h
  | refused r => exact absurd rfl (h r)

/-! ### The shared operations -/

theorem meaningful_receiveAll (bs : List Byte) (s : State) : Meaningful (receiveAll bs s) := by
  induction bs generalizing s with
  | nil => exact meaningful_next s
  | cons b bs ih => exact .andThen (receive_not_refused b s) ih

theorem meaningful_sendByte (s : State) : Meaningful (sendByte s) := by
  unfold sendByte
  split
  · exact meaningful_next _
  · split <;> exact meaningful_next _

theorem meaningful_sendBytes (n : Nat) (s : State) : Meaningful (sendBytes n s) := by
  induction n generalizing s with
  | zero => exact meaningful_next s
  | succ n ih => exact (meaningful_sendByte s).andThen ih

theorem meaningful_finishStart (s : State) : Meaningful (finishStart s) :=
  .ite (meaningful_next _) (meaningful_next _)

theorem meaningful_harvestWith (d : Descriptor) (s : State) : Meaningful (harvestWith d s) :=
  meaningful_within _ _

theorem meaningful_pollWith {d : Descriptor} (hd : d.wf = true) (s : State) : Meaningful (pollWith d s) := by
  refine .admitted ?_ hd
  split
  · exact meaningful_next _
  · refine .ite (meaningful_next _) ?_
    split
    · exact meaningful_next _
    · exact meaningful_next _
    · exact meaningful_next _
    · exact meaningful_next _
    · exact meaningful_harvestWith d s

theorem meaningful_completeWith {d : Descriptor} (hd : d.wf = true) (k : ResultKind) (s : State) :
    Meaningful (completeWith k d s) := by
  refine .admitted (.ite ?_ (meaningful_next _)) hd
  unfold completionStep
  split
  · exact meaningful_finishStart s
  · exact meaningful_pollWith hd s

theorem meaningful_evaluateDecoder {k : DecodeKind} (hk : k.wf = true) (s : State) : Meaningful (evaluateDecoder k s) :=
  .admitted (meaningful_within _ _) hk

theorem meaningful_statusIs (k : TState) (s : State) : Meaningful (statusIs k s) :=
  .ite (meaningful_next _) (meaningful_next _)

/-! ### The rows -/

theorem meaningful_execFrameRequest (req : Byte) {pl : List Byte} (h : decide (pl.length ≤ maxPayload) = true)
    (s : State) : Meaningful (execFrameRequest req pl s) :=
  .admitted (.ite ((meaningful_sendBytes _ _).andThen meaningful_finishStart) (meaningful_next _)) h

theorem meaningful_execFrameReply (ty : Byte) (ck : Option Half) {pl : List Byte} (h : pl.length ≤ maxPayload)
    (s : State) : Meaningful (execFrameReply ty ck pl s) := by
  rw [execFrameReply, if_pos h]
  exact meaningful_receiveAll _ s

theorem meaningful_exec (s : State) : ∀ i : Instr, i.wf = true → isReserved i = false → Meaningful (exec i s)
  -- the input events
  | .rx b, _, _ => receive_not_refused b s
  | .poll _, h, _ => meaningful_pollWith h s
  | .reset, _, _ | .view _, _, _ | .status, _, _ => meaningful_next _
  -- the dispatcher's steps
  | .txack, _, _ | .txByte, _, _ => meaningful_sendByte s
  | .startReset _, h, _ => .admitted (.ite (meaningful_next _) (meaningful_next _)) h
  | .setSent, _, _ => meaningful_finishStart s
  | .harvest d, h, _ => .admitted (.ite (meaningful_harvestWith d s) (meaningful_next _)) h
  -- the functions and the decoder kinds
  | .encodeRequest _ _, h, _ => .admitted (meaningful_next _) h
  | .verifyChecksum, _, _ => meaningful_within _ _
  | .decodeErrcode, _, _ => meaningful_next _
  | .decodeFixed, _, _ | .dkFixed, _, _ => meaningful_evaluateDecoder (k := .fixed) rfl s
  | .decodeArray rs, h, _ | .dkArray rs, h, _ => meaningful_evaluateDecoder (k := .array rs) h s
  | .decodeTlv, _, _ | .dkTlv, _, _ => meaningful_evaluateDecoder (k := .tlv) rfl s
  -- the wire
  | .frameRequest req _, h, _ => meaningful_execFrameRequest req h s
  | .frameReply ty ck _, h, _ => meaningful_execFrameReply ty ck (of_decide_eq_true h) s
  | .syncNock, _, _ | .syncCk, _, _ => meaningful_receiveAll _ s
  | .typeError, _, _ | .typeGetVersion, _, _ | .typeVersion, _, _ => receive_not_refused _ s
  | .tagVector, _, _ | .tagIntersection, _, _ | .tagBarcode, _, _ => receive_not_refused _ s
  -- the result kinds and the status codes
  | .ok _, h, _ | .busy _, h, _ | .badChecksum _, h, _ => meaningful_completeWith h _ s
  | .typeErrorResult _, h, _ | .sensorError _, h, _ | .faultResult _, h, _ => meaningful_completeWith h _ s
  | .stIdle, _, _ | .stSent, _, _ | .stReceivingHeader, _, _ | .stReceivingPayload, _, _
  | .stComplete, _, _ => meaningful_statusIs _ s

/-! ### The statements -/

/-- Settles O4: each of the five arms is its refusal. -/
theorem reservedCodesAreRefused : Obligations.ReservedCodesAreRefused := by
  unfold Obligations.ReservedCodesAreRefused
  exact fun _ => ⟨rfl, rfl, rfl, rfl, rfl⟩

/-- Settles O5: the admission of the operands stands before every other test of these rows. -/
theorem whatIsNotAdmittedIsRefusedFirst : Obligations.WhatIsNotAdmittedIsRefusedFirst := by
  unfold Obligations.WhatIsNotAdmittedIsRefusedFirst
  refine ⟨fun d s h => ?descriptor, fun op pl s h => ?payload, fun s => ?recordSize⟩
  case descriptor =>
    have ill := not_wf_of_long_or_array_zero h
    exact ⟨admitted_of_false _ ill, admitted_of_false _ ill, admitted_of_false _ ill⟩
  case payload =>
    have long : ¬pl.length ≤ maxPayload := Nat.not_le_of_lt h
    have ill := decide_eq_false long
    exact ⟨admitted_of_false _ ill, admitted_of_false _ ill, fun _ => if_neg long⟩
  case recordSize =>
    have refused : evaluateDecoder (.array 0) s = .refused .badDescriptor := evaluateDecoder_of_not_wf rfl s
    exact ⟨refused, refused⟩

/-- Settles O6: each reserved row is refused, and every other row gives admitted operands a meaning. -/
theorem onlyReservedRowsAreRefused : Obligations.OnlyReservedRowsAreRefused := by
  unfold Obligations.OnlyReservedRowsAreRefused
  intro i s hwf
  cases hr : isReserved i with
  | false => simpa [Meaningful] using meaningful_exec s i hwf hr
  | true =>
    obtain ⟨h6, h7, hdk, htimeout, hresult⟩ := reservedCodesAreRefused s
    have refused : ∃ r, exec i s = .refused r := by
      unfold isReserved at hr
      split at hr
      · exact ⟨_, h6⟩
      · exact ⟨_, h7⟩
      · exact ⟨_, hdk⟩
      · exact ⟨_, htimeout⟩
      · exact ⟨_, hresult⟩
      · cases hr
    simpa using refused

end Sys2Proof.Machine
end

section
/-! A frame delivered byte by byte (40_receiver.md R100 to R112, 30_encoding.md R71 to R73): the bytes land one after the
other, and the registers move only at the sync word, at the header's end and at the payload's end. -/

namespace Sys2Proof.Machine

/-! ### Bytes that only land -/

/-- R103, R112 for each of the bytes: they are written from the cursor on, and the cursor stands past them. -/
def storeAll : List Byte → State → State
  | [], s => s
  | b :: bs, s => storeAll bs (advance (store b s))

theorem storeAll_append (as bs : List Byte) (s : State) : storeAll (as ++ bs) s = storeAll bs (storeAll as s) := by
  induction as generalizing s with
  | nil => rfl
  | cons a as ih => exact ih _

/-- Only the buffer and the cursor move. -/
theorem storeAll_eq (bs : List Byte) (s : State) :
    storeAll bs s = { s with buf := (storeAll bs s).buf, wc := s.wc + bs.length } := by
  induction bs generalizing s with
  | nil => rfl
  | cons b bs ih =>
    rw [storeAll, ih]
    simp [advance, store, Nat.add_assoc, Nat.add_comm 1]

@[simp] theorem storeAll_st (bs : List Byte) (s : State) : (storeAll bs s).st = s.st := by rw [storeAll_eq]
@[simp] theorem storeAll_wc (bs : List Byte) (s : State) : (storeAll bs s).wc = s.wc + bs.length := by rw [storeAll_eq]
@[simp] theorem storeAll_hc (bs : List Byte) (s : State) : (storeAll bs s).hc = s.hc := by rw [storeAll_eq]
@[simp] theorem storeAll_dc (bs : List Byte) (s : State) : (storeAll bs s).dc = s.dc := by rw [storeAll_eq]
@[simp] theorem storeAll_plen (bs : List Byte) (s : State) : (storeAll bs s).plen = s.plen := by rw [storeAll_eq]
@[simp] theorem storeAll_fault (bs : List Byte) (s : State) : (storeAll bs s).fault = s.fault := by rw [storeAll_eq]

/-- Bytes land in the same way whatever the receiver's state and header registers are. -/
theorem storeAll_registers (bs : List Byte) (s : State) (st : TState) (hc dc : Nat) (plen : Byte) (ck : Bool) :
    storeAll bs { s with st := st, hc := hc, dc := dc, plen := plen, ck := ck } =
      { storeAll bs s with st := st, hc := hc, dc := dc, plen := plen, ck := ck } := by
  induction bs generalizing s with
  | nil => rfl
  | cons b bs ih => exact ih (advance (store b s))

/-- R103: outside the range that the cursor passes every byte stays. -/
theorem cell_storeAll_other (bs : List Byte) (s : State) {a : Nat} (ha : a < s.wc ∨ s.wc + bs.length ≤ a) :
    cell (storeAll bs s) a = cell s a := by
  induction bs generalizing s with
  | nil => rfl
  | cons b bs ih =>
    rw [List.length_cons] at ha
    rw [storeAll, ih _ (by rw [advance_wc, store_wc]; omega)]
    exact cell_store_other b s (by omega)

/-- R103: inside it each byte stands at its place. -/
theorem cell_storeAll {bs : List Byte} (s : State) {k : Nat} {b : Byte} (hb : bs[k]? = some b) :
    cell (storeAll bs s) (s.wc + k) = b := by
  induction bs generalizing s k with
  | nil => simp at hb
  | cons c bs ih =>
    cases k with
    | zero =>
      obtain rfl : c = b := by simpa using hb
      rw [storeAll, cell_storeAll_other _ _ (by simp)]
      exact cell_store_same c s
    | succ k =>
      have landed := ih (advance (store c s)) (k := k) (by simpa using hb)
      rwa [advance_wc, store_wc, Nat.add_right_comm, Nat.add_assoc] at landed

theorem bytesAt_storeAll (bs : List Byte) (s : State) : bytesAt (storeAll bs s) s.wc bs.length = bs := by
  refine List.ext_getElem? fun k => ?_
  by_cases hk : k < bs.length
  · rw [bytesAt_getElem? _ hk, cell_storeAll s (List.getElem?_eq_getElem hk), List.getElem?_eq_getElem hk]
  · rw [List.getElem?_eq_none (by simpa using hk), List.getElem?_eq_none (by simpa using hk)]

/-- R112: after the store and the state's rule the cursor moves. -/
theorem receive_of_rule {b : Byte} {s u : State} (hf : s.fault = false) (hw : s.wc < CAP)
    (h : receiveRule (store b s) = .next u) : receive b s = .next (advance u) := by
  rw [receive_stored b hf hw, h, andThen_next]

/-! ### The sync word -/

/-- R105, R106: a sync word ends at the cursor. -/
theorem detectSync_of_match {s : State} {w : Half} (hpos : 1 ≤ s.wc)
    (hword : le16 (cell s (s.wc - 1)) (cell s s.wc) = w) (h : isSync s.cfg w = true) :
    detectSync s = { s with
      hc := s.wc - 1, ck := ckOf s.cfg w, dc := s.wc - 1 + headerSize (ckOf s.cfg w), st := .receivingHeader } := by
  simp [detectSync, hpos, hword, h]

section
variable {b : Byte} {s : State} (hf : s.fault = false) (hw : s.wc < CAP) (hs : s.st = .sent)
include hf hw hs

/-- R105: a byte that ends no sync word only lands. -/
theorem receive_of_no_match (h : s.wc = 0 ∨ isSync s.cfg (le16 (cell s (s.wc - 1)) b) = false) :
    receive b s = .next (advance (store b s)) := by
  refine receive_of_rule hf hw ((receiveRule_sent (s := store b s) hs).trans (congrArg _ ?_))
  obtain same | ⟨hpos, hsync, -⟩ := detectSync_cases (store b s)
  · exact same
  · rw [store_wc] at hpos hsync
    rw [cell_store_same, cell_store_other _ _ (by omega), store_cfg] at hsync
    simp [show s.wc ≠ 0 by omega, hsync] at h

/-- R105, R106: a byte that ends a sync word starts a header at the byte before it. -/
theorem receive_of_match {w : Half} (hpos : 1 ≤ s.wc) (hword : le16 (cell s (s.wc - 1)) b = w)
    (h : isSync s.cfg w = true) :
    receive b s = .next { advance (store b s) with
      hc := s.wc - 1, ck := ckOf s.cfg w, dc := s.wc - 1 + headerSize (ckOf s.cfg w), st := .receivingHeader } := by
  refine (receive_of_rule hf hw (receiveRule_sent (s := store b s) hs)).trans (congrArg _ ?_)
  have word : le16 (cell (store b s) (s.wc - 1)) (cell (store b s) s.wc) = w := by
    rw [cell_store_same, cell_store_other _ _ (by omega), hword]
  rw [detectSync_of_match (s := store b s) hpos word h]
  rfl

end

/-- The state after a sync word `w` that came at the cursor of `s` (R103, R106). -/
def wordFound (w : Half) (s : State) : State :=
  { storeAll [loByte w, hiByte w] s with
    hc := s.wc, ck := ckOf s.cfg w, dc := s.wc + headerSize (ckOf s.cfg w), st := .receivingHeader }

/-- R73: a sync word whose low byte completes none is found at its low byte. -/
theorem receiveWord_of_isSync {s : State} {w : Half} (hf : s.fault = false) (hw : s.wc + 1 < CAP) (hs : s.st = .sent)
    (hlow : s.wc = 0 ∨ isSync s.cfg (le16 (cell s (s.wc - 1)) (loByte w)) = false) (h : isSync s.cfg w = true) :
    receiveWord w s = .next (wordFound w s) := by
  have low := receive_of_no_match hf (Nat.lt_of_succ_lt hw) hs hlow
  have word : le16 (cell (advance (store (loByte w) s)) s.wc) (hiByte w) = w := by
    rw [cell_congr (advance_buf _), cell_store_same, le16_bytes]
  have high := receive_of_match (s := advance (store (loByte w) s)) hf hw hs (Nat.le_add_left ..) word h
  rw [receiveWord, receiveAll, low, andThen_next, receiveAll, high]
  rfl

/-! ### The header and the payload -/

/-- `n` more bytes do not end the part of the frame that is under way (R108, R111). -/
def MidFrame (s : State) (n : Nat) : Prop :=
  (s.st = .receivingHeader ∧ s.wc + n < s.dc) ∨ (s.st = .receivingPayload ∧ s.wc + n < frameEnd s)

theorem receiveAll_of_midFrame {bs : List Byte} {s : State} (hf : s.fault = false) (hcap : s.wc + bs.length ≤ CAP)
    (h : MidFrame s bs.length) : receiveAll bs s = .next (storeAll bs s) := by
  induction bs generalizing s with
  | nil => rfl
  | cons b bs ih =>
    rw [List.length_cons] at hcap h
    have lands : receiveRule (store b s) = .next (store b s) := by
      obtain ⟨hs, hd⟩ | ⟨hs, hd⟩ := h
      · exact receiveRule_header (s := store b s) hs (by rw [store_wc, store_dc]; omega)
      · obtain ⟨hend, -⟩ | ⟨-, same⟩ := finishPayload_cases (store b s)
        · rw [store_wc, store_frameEnd] at hend
          omega
        · exact (receiveRule_payload (s := store b s) hs).trans (congrArg _ same)
    rw [receiveAll, receive_of_rule hf (by omega) lands, andThen_next]
    refine ih hf (by rw [advance_wc, store_wc]; omega) (h.imp ?_ ?_)
    · rintro ⟨hs, hd⟩
      exact ⟨hs, by rw [advance_wc, store_wc, advance_dc, store_dc]; omega⟩
    · rintro ⟨hs, hd⟩
      exact ⟨hs, by rw [advance_wc, store_wc, advance_frameEnd, store_frameEnd]; omega⟩

/-- The last byte of a part: what its rule answers is what the whole part answers. -/
theorem receiveAll_concat {bs : List Byte} {b : Byte} {s u : State} (hf : s.fault = false)
    (hcap : s.wc + bs.length < CAP) (hmid : MidFrame s bs.length)
    (last : receiveRule (store b (storeAll bs s)) = .next u) : receiveAll (bs ++ [b]) s = .next (advance u) := by
  rw [receiveAll_append, receiveAll_of_midFrame hf hcap.le hmid, andThen_next, receiveAll,
    receive_of_rule (by simpa using hf) (by rwa [storeAll_wc]) last]
  rfl

/-- R108, R110: the bytes up to `dc` end the header, and the last of them takes the length. -/
theorem receiveAll_header {bs : List Byte} {s : State} (hf : s.fault = false) (hs : s.st = .receivingHeader)
    (hne : bs ≠ []) (hlen : s.wc + bs.length = s.dc) (hcap : s.dc ≤ CAP) (hhc : s.hc + 4 ≤ CAP) :
    receiveAll bs s = .next (takeLength (storeAll bs s)) := by
  obtain rfl | ⟨init, b, rfl⟩ := List.eq_nil_or_concat' bs
  · exact absurd rfl hne
  · rw [List.length_append, List.length_singleton] at hlen
    have last : receiveRule (store b (storeAll init s)) = .next (takeLength (store b (storeAll init s))) := by
      rw [receiveRule_headerEnd (by simp [hs]) (by simp; omega)]
      exact within_of_le _ (by simpa using hhc)
    rw [receiveAll_concat hf (by omega) (.inl ⟨hs, by omega⟩) last, storeAll_append]
    rfl

/-- R111: the bytes up to the frame's end complete the frame. -/
theorem receiveAll_payload {bs : List Byte} {s : State} (hf : s.fault = false) (hs : s.st = .receivingPayload)
    (hne : bs ≠ []) (hlen : s.wc + bs.length = frameEnd s) (hcap : frameEnd s ≤ CAP) :
    receiveAll bs s = .next { storeAll bs s with st := .complete } := by
  obtain rfl | ⟨init, b, rfl⟩ := List.eq_nil_or_concat' bs
  · exact absurd rfl hne
  · rw [List.length_append, List.length_singleton] at hlen
    have last : receiveRule (store b (storeAll init s)) = .next { store b (storeAll init s) with st := .complete } := by
      rw [receiveRule_payload (by simp [hs]), finishPayload, if_pos (by simp [frameEnd] at hlen ⊢; omega)]
    rw [receiveAll_concat hf (by omega) (.inr ⟨hs, by omega⟩) last, storeAll_append]
    rfl

/-! ### The whole frame -/

/-- R73, R106: the sync word of a reply frame with or without a checksum field. -/
def replySync (c : Cfg) (ck : Option Half) : Half := if ck.isSome then c.syncCk else c.syncNock

/-- R71: what follows the sync word in the header of a reply frame. -/
def replyFields (ty n : Byte) (ck : Option Half) : List Byte :=
  ty :: n :: ck.elim [] fun f => [loByte f, hiByte f]

/-- R71, R72: the header of a reply frame. -/
def replyHeader (c : Cfg) (ty n : Byte) (ck : Option Half) : List Byte :=
  [loByte (replySync c ck), hiByte (replySync c ck)] ++ replyFields ty n ck

theorem replyFrame_eq (c : Cfg) (ty : Byte) (ck : Option Half) (pl : List Byte) :
    replyFrame c ty ck pl = replyHeader c ty (BitVec.ofNat 8 pl.length) ck ++ pl := by
  cases ck <;> rfl

theorem replyFields_length (ty n : Byte) (ck : Option Half) :
    2 + (replyFields ty n ck).length = headerSize ck.isSome := by
  cases ck <;> rfl

/-- R72: the length byte is the second after the sync word. -/
theorem lengthByte_replyFields (ty n : Byte) (ck : Option Half) {u : State} (h : u.wc = u.hc + 2) :
    lengthByte (storeAll (replyFields ty n ck) u) = n := by
  have landed := cell_storeAll u (bs := replyFields ty n ck) (k := 1) rfl
  rw [h] at landed
  rw [lengthByte, storeAll_hc]
  exact landed

@[simp] theorem replyHeader_length (c : Cfg) (ty n : Byte) (ck : Option Half) :
    (replyHeader c ty n ck).length = headerSize ck.isSome := by
  cases ck <;> rfl

theorem isSync_replySync (c : Cfg) (ck : Option Half) : isSync c (replySync c ck) = true := by
  cases ck <;> simp [replySync, isSync]

theorem ckOf_syncNock {c : Cfg} (h : c.wf = true) : ckOf c c.syncNock = false := by
  simp only [Cfg.wf, Bool.and_eq_true, bne_iff_ne] at h
  simp [ckOf, h]

theorem ckOf_replySync {c : Cfg} (h : c.wf = true) (ck : Option Half) : ckOf c (replySync c ck) = ck.isSome := by
  cases ck with
  | none => exact ckOf_syncNock h
  | some _ => simp [replySync, ckOf]

/-- The state after a whole reply frame that came from an empty buffer (R72, R103, R106, R108, R111). -/
def frameReceived (ty : Byte) (ck : Option Half) (pl : List Byte) (s : State) : State :=
  { storeAll (replyHeader s.cfg ty (BitVec.ofNat 8 pl.length) ck ++ pl) s with
    hc := 0, ck := ck.isSome, dc := headerSize ck.isSome, plen := BitVec.ofNat 8 pl.length, st := .complete }

theorem cell_frameReceived_eq (ty : Byte) (ck : Option Half) (pl : List Byte) (s : State) (a : Nat) :
    cell (frameReceived ty ck pl s) a =
      cell (storeAll (replyHeader s.cfg ty (BitVec.ofNat 8 pl.length) ck ++ pl) s) a :=
  cell_congr rfl a

theorem toNat_payloadLength {pl : List Byte} (h : pl.length ≤ maxPayload) :
    (BitVec.ofNat 8 pl.length).toNat = pl.length := by
  have : pl.length ≤ 255 := h
  rw [BitVec.toNat_ofNat]
  omega

section
variable {s : State} (hw : s.wc = 0) (ty : Byte) (ck : Option Half)
include hw

section
variable (hc : s.cfg.wf = true) (hf : s.fault = false) (hs : s.st = .sent)
include hc hf hs

/-- R105 to R110: from an empty buffer a whole header sets the header registers and takes its length byte. -/
theorem receiveAll_replyHeader (n : Byte) :
    receiveAll (replyHeader s.cfg ty n ck) s = .next { storeAll (replyHeader s.cfg ty n ck) s with
      hc := 0, ck := ck.isSome, dc := headerSize ck.isSome, plen := n,
      st := if n = 0 then .idle else .receivingPayload } := by
  have found := receiveWord_of_isSync hf (by rw [hw]; decide) hs (.inl hw) (isSync_replySync s.cfg ck)
  rw [wordFound, ckOf_replySync hc, hw, Nat.zero_add] at found
  have size : headerSize ck.isSome ≤ CAP := Nat.le_trans (headerSize_le _) (by decide)
  have fields := replyFields_length ty n ck
  rw [replyHeader, receiveAll_append, ← receiveWord, found, andThen_next,
    receiveAll_header (by simp [hf]) rfl (by simp [replyFields]) (by simpa [hw] using fields) size
      (by decide : 0 + 4 ≤ CAP),
    takeLength, lengthByte_replyFields ty n ck (by simp [hw]), storeAll_registers, ← storeAll_append]

/-- R111: with a payload that fits the buffer the whole frame completes. -/
theorem receiveAll_replyFrame {pl : List Byte} (hpos : 1 ≤ pl.length) (hmax : pl.length ≤ maxPayload)
    (hcap : headerSize ck.isSome + pl.length ≤ CAP) :
    receiveAll (replyFrame s.cfg ty ck pl) s = .next (frameReceived ty ck pl s) := by
  have toNat := toNat_payloadLength hmax
  have nonzero : BitVec.ofNat 8 pl.length ≠ 0 := fun h => by simp [h] at toNat; omega
  have header := receiveAll_replyHeader hw ty ck hc hf hs (BitVec.ofNat 8 pl.length)
  rw [if_neg nonzero] at header
  rw [replyFrame_eq, receiveAll_append, header, andThen_next, receiveAll_payload (by simp [hf]) rfl
    (List.ne_nil_of_length_pos hpos) (by simp [frameEnd, hw, toNat]) (by simpa [frameEnd, toNat] using hcap),
    storeAll_registers, ← storeAll_append, frameReceived]

end

/-- R72: each byte of the frame stands at its place. -/
theorem cell_frameReceived {pl : List Byte} {k : Nat} {b : Byte}
    (hb : (replyHeader s.cfg ty (BitVec.ofNat 8 pl.length) ck ++ pl)[k]? = some b) :
    cell (frameReceived ty ck pl s) k = b := by
  have landed := cell_storeAll s hb
  rwa [hw, Nat.zero_add, ← cell_frameReceived_eq] at landed

/-- R72: the payload stands at `dc`. -/
theorem bytesAt_frameReceived (pl : List Byte) :
    bytesAt (frameReceived ty ck pl s) (headerSize ck.isSome) pl.length = pl := by
  have landed := bytesAt_storeAll pl (storeAll (replyHeader s.cfg ty (BitVec.ofNat 8 pl.length) ck) s)
  rw [storeAll_wc, replyHeader_length, hw, Nat.zero_add, ← storeAll_append] at landed
  rw [bytesAt_congr fun j _ _ => cell_frameReceived_eq ty ck pl s j, landed]

end

/-! ### The statements -/

/-- Settles O18: both words are sync words, and `ck` names the one that came. -/
theorem syncWordOnTheWireIsDetected : Obligations.SyncWordOnTheWireIsDetected := by
  unfold Obligations.SyncWordOnTheWireIsDetected
  intro s hc hf hw hs
  refine ⟨fun hlow => ?ck, fun hlow => ?nock⟩
  case ck =>
    have ck : ckOf s.cfg s.cfg.syncCk = true := by simp [ckOf]
    have found := receiveWord_of_isSync hf hw hs hlow (by simp [isSync])
    rwa [wordFound, ck] at found
  case nock =>
    have found := receiveWord_of_isSync hf hw hs hlow (by simp [isSync])
    rwa [wordFound, ckOf_syncNock hc] at found

/-- Settles O16: the whole frame completes, and its bytes stand where they landed. -/
theorem replyFrameReachesComplete : Obligations.ReplyFrameReachesComplete := by
  unfold Obligations.ReplyFrameReachesComplete
  intro s ty ck pl hc hf hs hw hpos hlen
  have size : headerSize ck.isSome = if ck.isSome then 6 else 4 := rfl
  have hcap : headerSize ck.isSome + pl.length ≤ CAP := by
    cases ck with
    | none => exact Nat.add_le_add_left hlen 4
    | some _ => exact Nat.add_le_add_left hlen 6
  have hmax : pl.length ≤ maxPayload := by
    have := four_le_headerSize ck.isSome
    rw [CAP] at hcap
    rw [maxPayload]
    omega
  have place := @cell_frameReceived s hw ty ck pl
  refine ⟨frameReceived ty ck pl s, (if_pos hmax).trans (receiveAll_replyFrame hw ty ck hc hf hs hpos hmax hcap),
    ?registers, ?sync, place rfl, ?length, ?checksum, bytesAt_frameReceived hw ty ck pl, ?rest⟩
  case registers =>
    rw [frameReceived, storeAll_eq, List.length_append, replyHeader_length, hw, Nat.zero_add, size]
  case sync =>
    rw [place (k := 0) rfl, place (k := 1) rfl, le16_bytes]
    rfl
  case length =>
    rw [place (k := 3) rfl, toNat_payloadLength hmax]
  case checksum =>
    rintro c rfl
    rw [place (k := 4) rfl, place (k := 5) rfl, le16_bytes]
  case rest =>
    intro a ha
    rw [cell_frameReceived_eq, cell_storeAll_other _ s (.inr (by rwa [← storeAll_wc]))]

end Sys2Proof.Machine
end

section
/-! A request frame on the wire (42_dispatcher.md R152 to R155): the start, every byte of it, and the completion. -/

namespace Sys2Proof.Machine

/-- R154: the byte on offer goes out and the next one is on offer. -/
theorem sendByte_of_offer {s : State} {f : List Byte} {i : Nat} {b : Byte} (hd : s.dph = .tx f i)
    (hb : f[i]? = some b) :
    sendByte s = .next (put (.tx b) { s with dph := .tx f (i + 1) }) := by
  simp [sendByte, hd, hb]

/-- R154 for each byte of the frame from `i` on. -/
theorem sendBytes_rest {f : List Byte} {n i : Nat} {s : State} (hd : s.dph = .tx f i) (hn : i + n = f.length) :
    sendBytes n s = .next { s with dph := .tx f f.length, outs := s.outs ++ (f.drop i).map .tx } := by
  induction n generalizing i s with
  | zero =>
    obtain rfl : i = f.length := hn
    rw [← hd]
    simp [sendBytes]
  | succ n ih =>
    have hi : i < f.length := by omega
    rw [sendBytes, sendByte_of_offer hd (List.getElem?_eq_getElem hi), andThen_next, ih rfl (by omega),
      List.drop_eq_getElem_cons hi]
    simp only [put, List.map_cons, List.append_assoc, List.singleton_append]

/-- R155: with every byte accepted the start completes. -/
theorem finishStart_of_allSent {s : State} (h : allSent s.dph = true) :
    finishStart s = .next (answer (startResult s) { s with st := .sent, dph := .ready }) :=
  if_pos h

/-- Settles O30: the start offers the frame, its bytes go out one by one, and with no fault the result is `BUSY`. -/
theorem requestFrameGoesOutWhole : Obligations.RequestFrameGoesOutWhole := by
  unfold Obligations.RequestFrameGoesOutWhole
  intro req pl s hpl hd hf hs
  have sent := sendBytes_rest (s := startTransaction req pl s) (startTransaction_dph req pl s) (Nat.zero_add _)
  calc exec (.frameRequest req pl) s
      = andThen (sendBytes (requestFrame s.cfg req pl).length (startTransaction req pl s)) finishStart :=
        (admitted_of _ (decide_eq_true hpl)).trans (if_pos ⟨hd, hf, hs⟩)
    _ = _ := by
        rw [sent, andThen_next, finishStart_of_allSent (by simp [allSent])]
        simp [answer, put, startResult, startTransaction, hf, hd]

end Sys2Proof.Machine
end

section
/-! The record walker (43_decoder.md R183 to R188): what one record adds, what a walk over a sequence of records has seen,
and where the views of any walk lie. -/

namespace Sys2Proof.Machine

/-! ### One record -/

section
variable {c : Cfg} {tag : Byte}

theorem recordSeen_of_vector (h : recordKind c tag = some .vector) (offset len : Nat) (acc : TlvAcc) :
    recordSeen c tag offset len acc =
      { acc with mask := acc.mask ||| maskBit .vector, vec := some (recordView c .vector offset len) } := by
  rw [recordSeen, h]

theorem recordSeen_of_intersection (h : recordKind c tag = some .intersection) (offset len : Nat) (acc : TlvAcc) :
    recordSeen c tag offset len acc = { acc with
      mask := acc.mask ||| maskBit .intersection, inter := some (recordView c .intersection offset len) } := by
  rw [recordSeen, h]

theorem recordSeen_of_barcode (h : recordKind c tag = some .barcode) (offset len : Nat) (acc : TlvAcc) :
    recordSeen c tag offset len acc =
      { acc with mask := acc.mask ||| maskBit .barcode, bar := some (recordView c .barcode offset len) } := by
  rw [recordSeen, h]

theorem recordSeen_of_none (h : recordKind c tag = none) (offset len : Nat) (acc : TlvAcc) :
    recordSeen c tag offset len acc = acc := by
  rw [recordSeen, h]

end

/-- Settles O40: the tags are distinct (R10), so each selects its own kind. -/
theorem recordJoinsTheMaskAndTheViews : Obligations.RecordJoinsTheMaskAndTheViews := by
  unfold Obligations.RecordJoinsTheMaskAndTheViews
  intro c tag offset len acc hc
  simp only [Cfg.wf, Bool.and_eq_true, bne_iff_ne] at hc
  obtain ⟨⟨⟨-, hvi⟩, hvb⟩, hib⟩ := hc
  refine ⟨?vector, ?intersection, ?barcode, fun hv hi hb => ?other⟩
  case vector =>
    rintro rfl
    exact recordSeen_of_vector (by simp [recordKind]) offset len acc
  case intersection =>
    rintro rfl
    exact recordSeen_of_intersection (by simp [recordKind, hvi.symm]) offset len acc
  case barcode =>
    rintro rfl
    exact recordSeen_of_barcode (by simp [recordKind, hvb.symm, hib.symm]) offset len acc
  case other => exact recordSeen_of_none (by simp [recordKind, hv, hi, hb]) offset len acc

/-! ### A sequence of records -/

/-- R187: where no record fits, the walk ends. -/
theorem walk_of_truncated {s : State} {p n : Nat} {acc : TlvAcc} (h : Truncated (bytesAt s p n)) (fuel : Nat) :
    walk s (p + n) fuel p acc = acc := by
  cases fuel with
  | zero => rfl
  | succ fuel =>
    rw [walk_succ, if_neg]
    match n, h with
    | 0, _ => omega
    | 1, _ => omega
    | n + 2, h =>
      have short : n < (cell s (p + 1)).toNat := by simpa [bytesAt, Truncated] using h
      omega

/-- R183: a record that fits is one pass of the walk. -/
theorem walk_of_record {s : State} {p stop : Nat} {r : Rec} (hr : r.2.length ≤ 255)
    (h : bytesAt s p (2 + r.2.length) = recordBytes r) (hstop : p + 2 + r.2.length ≤ stop) (fuel : Nat) (acc : TlvAcc) :
    walk s stop (fuel + 1) p acc =
      walk s stop fuel (p + 2 + r.2.length) (recordSeen s.cfg r.1 (p + 2) r.2.length acc) := by
  rw [Nat.add_comm 2] at h
  simp only [bytesAt, recordBytes, List.cons.injEq] at h
  obtain ⟨htag, hlen, -⟩ := h
  have len : (cell s (p + 1)).toNat = r.2.length := by
    rw [hlen, BitVec.toNat_ofNat]
    omega
  rw [walk_succ, len, if_pos hstop, htag]

theorem recordBytes_length (r : Rec) : (recordBytes r).length = 2 + r.2.length := by
  simp [recordBytes]
  omega

/-- R183 to R187: over a sequence of records, and then bytes in which none fits, the walk sees the records in turn. -/
theorem walk_of_records {s : State} {tail : List Byte} (htail : Truncated tail) {rs : List Rec} {p n fuel : Nat}
    (hrs : ∀ r ∈ rs, r.2.length ≤ 255) (h : bytesAt s p n = rs.flatMap recordBytes ++ tail) (hfuel : rs.length ≤ fuel)
    (acc : TlvAcc) : walk s (p + n) fuel p acc = recordsSeen s.cfg p rs acc := by
  induction rs generalizing p n fuel acc with
  | nil => exact walk_of_truncated (h ▸ htail) fuel
  | cons r rs ih =>
    obtain ⟨hr, hrs⟩ := List.forall_mem_cons.mp hrs
    obtain ⟨fuel, rfl⟩ := Nat.exists_eq_add_one_of_ne_zero (Nat.ne_zero_of_lt hfuel)
    rw [List.flatMap_cons, List.append_assoc] at h
    have fits : 2 + r.2.length ≤ n := by
      have := congrArg List.length h
      rw [bytesAt_length, List.length_append, recordBytes_length] at this
      omega
    obtain ⟨m, rfl⟩ := Nat.exists_eq_add_of_le fits
    rw [bytesAt_add] at h
    obtain ⟨first, rest⟩ := List.append_inj h (by rw [bytesAt_length, recordBytes_length])
    rw [walk_of_record hr first (by omega), recordsSeen, ← ih hrs (p := p + 2 + r.2.length) (n := m) (fuel := fuel)]
    · congr 1
      omega
    · rwa [← Nat.add_assoc] at rest
    · exact Nat.le_of_succ_le_succ hfuel

/-- R189: each record takes two bytes at least. -/
theorem two_mul_length_le (rs : List Rec) : 2 * rs.length ≤ (rs.flatMap recordBytes).length := by
  induction rs with
  | nil => simp
  | cons r rs ih =>
    rw [List.flatMap_cons, List.length_append, recordBytes_length, List.length_cons]
    omega

/-- Settles O41: the passes are enough for the records, and no pass reads past the payload. -/
theorem walkerSeesExactlyTheRecords : Obligations.WalkerSeesExactlyTheRecords := by
  unfold Obligations.WalkerSeesExactlyTheRecords
  intro s rs tail hcap hrs htail hbytes
  have passes : rs.length ≤ walkFuel s := by
    have total := congrArg List.length hbytes
    rw [bytesAt_length, List.length_append] at total
    have := two_mul_length_le rs
    rw [walkFuel]
    omega
  have seen : decodeTlv s = tlvOut (recordsSeen s.cfg s.dc rs {}) :=
    congrArg tlvOut (walk_of_records htail hrs hbytes passes {})
  refine ⟨?_, rfl⟩
  rw [← seen]
  exact evaluateDecoder_of (k := .tlv) rfl (Nat.le_trans (decodeTop_le .tlv s) hcap)

/-! ### Where the views lie -/

/-- R82, R185, R187: `v`, if it is there, is a view of kind `k` inside the payload of `s`. -/
def ViewInPayload (s : State) (k : RecordKind) (v : Option View) : Prop :=
  ∀ w, v = some w → w.kind = viewKind k ∧ s.dc + 2 ≤ w.offset ∧ w.offset + w.len ≤ s.dc + s.plen.toNat ∧
    w.count = w.len / elemSize s.cfg k

/-- What holds of the mask and the views throughout a walk. -/
structure TlvAcc.InPayload (s : State) (acc : TlvAcc) : Prop where
  vec : ViewInPayload s .vector acc.vec
  inter : ViewInPayload s .intersection acc.inter
  bar : ViewInPayload s .barcode acc.bar
  mask : acc.mask.getLsbD 0 = acc.vec.isSome ∧ acc.mask.getLsbD 1 = acc.inter.isSome ∧
    acc.mask.getLsbD 2 = acc.bar.isSome

theorem inPayload_empty (s : State) : TlvAcc.InPayload s {} where
  vec _ h := by cases h
  inter _ h := by cases h
  bar _ h := by cases h
  mask := by decide

section
variable {s : State} {offset len : Nat} (hlo : s.dc + 2 ≤ offset) (hhi : offset + len ≤ s.dc + s.plen.toNat)
include hlo hhi

theorem viewInPayload_recordView (k : RecordKind) : ViewInPayload s k (some (recordView s.cfg k offset len)) := by
  rintro _ ⟨⟩
  exact ⟨rfl, hlo, hhi, rfl⟩

/-- R183 to R186: a record inside the payload that joins keeps its own kind's view and bit together, and the others'. -/
theorem TlvAcc.InPayload.recordSeen {acc : TlvAcc} (h : acc.InPayload s) (tag : Byte) :
    (recordSeen s.cfg tag offset len acc).InPayload s := by
  obtain ⟨hvec, hinter, hbar, hmask⟩ := h
  have joins := viewInPayload_recordView hlo hhi
  cases hk : recordKind s.cfg tag with
  | none =>
    rw [recordSeen_of_none hk]
    exact ⟨hvec, hinter, hbar, hmask⟩
  | some k =>
    cases k with
    | vector =>
      rw [recordSeen_of_vector hk]
      exact ⟨joins .vector, hinter, hbar, by simpa [maskBit] using hmask.2⟩
    | intersection =>
      rw [recordSeen_of_intersection hk]
      exact ⟨hvec, joins .intersection, hbar, by simpa [maskBit] using ⟨hmask.1, hmask.2.2⟩⟩
    | barcode =>
      rw [recordSeen_of_barcode hk]
      exact ⟨hvec, hinter, joins .barcode, by simpa [maskBit] using ⟨hmask.1, hmask.2.1⟩⟩

end

theorem inPayload_walk {s : State} {fuel p : Nat} {acc : TlvAcc} (hp : s.dc ≤ p) (h : acc.InPayload s) :
    (walk s (frameEnd s) fuel p acc).InPayload s := by
  induction fuel generalizing p acc with
  | zero => exact h
  | succ fuel ih =>
    rw [walk_succ]
    split
    · rename_i fits
      exact ih (by omega) (h.recordSeen (by omega) fits _)
    · exact h

/-- Settles O42: the empty table has no view, and every record that joins lies inside the payload. -/
theorem walkerViewsLieInThePayload : Obligations.WalkerViewsLieInThePayload := by
  unfold Obligations.WalkerViewsLieInThePayload
  intro s m vec inter bar h
  obtain ⟨hvec, hinter, hbar, hmask⟩ := inPayload_walk (fuel := walkFuel s) (Nat.le_refl s.dc) (inPayload_empty s)
  cases h
  exact ⟨hvec, hinter, hbar, hmask⟩

end Sys2Proof.Machine
end

section
/-! The receiver's rules as statements about `RX` (40_receiver.md R101 to R116): what a dropped byte leaves, what a stored byte
does in each state, and where the cursor stands when a part of the frame ends. -/

namespace Sys2Proof.Machine

/-! ### A byte that is dropped -/

/-- R101. -/
theorem receive_of_fault (b : Byte) {s : State} (hf : s.fault = true) : receive b s = .next s := by
  rw [receive, if_pos hf]

/-- R102. -/
theorem receive_of_full (b : Byte) {s : State} (hf : s.fault = false) (hw : CAP ≤ s.wc) :
    receive b s = .next (raiseOverrun s) := by
  rw [receive, if_neg (by simp [hf]), if_pos hw]

theorem receive_dropped {b : Byte} {s t : State} (h : receive b s = .next t) (hd : s.fault = true ∨ CAP ≤ s.wc) :
    t.buf = s.buf ∧ t.wc = s.wc ∧ t.st = s.st := by
  obtain ⟨-, rfl⟩ | ⟨-, -, rfl⟩ | ⟨hf, hw, -⟩ := receive_cases h
  · exact ⟨rfl, rfl, rfl⟩
  · exact ⟨rfl, rfl, rfl⟩
  · exact absurd hd (by simp [hf, hw])

/-- R101: no move but `RESET`'s clears the fault. -/
theorem Move.fault_of_fault {i : Instr} {s t : State} (hi : i ≠ .reset) (h : Move i s t) (hf : s.fault = true) :
    t.fault = true := by
  cases h with
  | @receive b _ _ hr =>
    cases (receive_of_fault b hf).symm.trans hr
    exact hf
  | reset hi' => exact absurd hi' hi
  | _ => exact hf

/-! ### What a receive leaves unchanged -/

/-- R104 to R111 write the transaction state and the header registers, nothing else. -/
theorem receiveRule_frame {s t : State} (h : receiveRule s = .next t) :
    t = { s with st := t.st, hc := t.hc, dc := t.dc, plen := t.plen, ck := t.ck } := by
  obtain ⟨-, rfl⟩ | ⟨-, rfl⟩ | ⟨-, -, -, rfl⟩ | ⟨-, -, rfl⟩ | ⟨-, rfl⟩ := receiveRule_cases h
  · rfl
  · obtain same | ⟨-, -, found⟩ := detectSync_cases s
    · rw [same]
    · rw [found]
  · rfl
  · rfl
  · obtain ⟨-, ends⟩ | ⟨-, same⟩ := finishPayload_cases s
    · rw [ends]
    · rw [same]

/-- R100, "State written": a receive writes the receiver's own registers and the buffer. -/
theorem receive_frame {b : Byte} {s t : State} (h : receive b s = .next t) :
    t = { s with
      st := t.st, wc := t.wc, hc := t.hc, dc := t.dc, plen := t.plen, ck := t.ck, fault := t.fault, buf := t.buf } := by
  obtain ⟨-, rfl⟩ | ⟨-, -, rfl⟩ | ⟨-, -, u, hu, rfl⟩ := receive_cases h
  · rfl
  · rfl
  · rw [receiveRule_frame hu]
    rfl

/-- R100: with room no rule raises the fault. -/
theorem receive_fault {b : Byte} {s t : State} (hf : s.fault = false) (hw : s.wc < CAP) (h : receive b s = .next t) :
    t.fault = false := by
  rw [receive_stored b hf hw] at h
  obtain ⟨u, hu, ht⟩ := andThen_eq_next h
  cases ht
  rw [advance_fault, receiveRule_frame hu]
  exact hf

theorem receive_wc_le_succ {b : Byte} {s t : State} (h : receive b s = .next t) : t.wc ≤ s.wc + 1 := by
  obtain ⟨-, rfl⟩ | ⟨-, -, rfl⟩ | ⟨-, -, u, hu, rfl⟩ := receive_cases h
  · exact Nat.le_succ _
  · exact Nat.le_succ _
  · rw [advance_wc, (receiveRule_wc_buf hu).1, store_wc]

/-- R103: every byte but the one at the old cursor stays. -/
theorem receive_cell_other {b : Byte} {s t : State} (h : receive b s = .next t) {a : Nat} (ha : a ≠ s.wc) :
    cell t a = cell s a := by
  have := receive_wc_le_succ h
  exact receive_cell_eq h (by omega)

/-! ### A byte that is stored, state by state -/

theorem cell_store (b : Byte) (s : State) (i : Nat) : cell (store b s) i = if i = s.wc then b else cell s i := by
  split
  · subst i
    exact cell_store_same b s
  · exact cell_store_other b s ‹_›

section
variable (b : Byte) {s : State} (hf : s.fault = false) (hw : s.wc < CAP)
include hf hw

/-- R104. -/
theorem receive_idle (hs : s.st = .idle ∨ s.st = .complete) : receive b s = .next (advance (store b s)) :=
  receive_of_rule hf hw (receiveRule_idle (s := store b s) hs)

/-- R108, before the header's last byte. -/
theorem receive_header (hs : s.st = .receivingHeader) (hd : s.wc + 1 < s.dc) :
    receive b s = .next (advance (store b s)) :=
  receive_of_rule hf hw (receiveRule_header (s := store b s) hs hd)

/-- R108 to R110, at the header's last byte. -/
theorem receive_headerEnd (hs : s.st = .receivingHeader) (hd : s.dc ≤ s.wc + 1) (hhc : s.hc + 4 ≤ CAP) :
    receive b s = .next (advance (takeLength (store b s))) :=
  receive_of_rule hf hw ((receiveRule_headerEnd (s := store b s) hs hd).trans (within_of_le _ hhc))

/-- R111. -/
theorem receive_payload (hs : s.st = .receivingPayload) :
    receive b s = .next (advance (finishPayload (store b s))) :=
  receive_of_rule hf hw (receiveRule_payload (s := store b s) hs)

end

theorem finishPayload_eq {s : State} (hs : s.st = .receivingPayload) :
    finishPayload s = { s with st := if frameEnd s ≤ s.wc + 1 then .complete else .receivingPayload } := by
  unfold finishPayload
  split
  · rfl
  · rw [← hs]

/-! ### Where a part of the frame ends -/

/-- R108: a header ends only with a byte that reaches the data cursor. -/
theorem receive_endsHeader {b : Byte} {s t : State} (hf : s.fault = false) (hw : s.wc < CAP)
    (h : receive b s = .next t) (hs : s.st = .receivingHeader) (ht : t.st ≠ .receivingHeader) : s.dc ≤ s.wc + 1 := by
  by_contra hd
  cases (receive_header b hf hw hs (Nat.lt_of_not_le hd)).symm.trans h
  exact ht hs

/-- R104 to R111: only the rule of a payload's end leads into `Complete`. -/
theorem receiveRule_completes {s t : State} (h : receiveRule s = .next t) (hs : s.st ≠ .complete)
    (ht : t.st = .complete) : s.st = .receivingPayload ∧ frameEnd s ≤ s.wc + 1 ∧ t = { s with st := .complete } := by
  obtain ⟨-, rfl⟩ | ⟨-, rfl⟩ | ⟨-, -, -, rfl⟩ | ⟨-, -, rfl⟩ | ⟨hp, rfl⟩ := receiveRule_cases h
  · exact absurd ht hs
  · obtain same | ⟨-, -, found⟩ := detectSync_cases s
    · exact absurd (same ▸ ht) hs
    · rw [found] at ht
      cases ht
  · rw [takeLength_st] at ht
    split at ht <;> cases ht
  · exact absurd ht hs
  · obtain ⟨hend, ends⟩ | ⟨-, same⟩ := finishPayload_cases s
    · exact ⟨hp, hend, ends⟩
    · exact absurd (same ▸ ht) hs

/-- R111: a byte that leads into `Complete` was stored in a payload and reaches its end, which stays where it was. -/
theorem receive_completes {b : Byte} {s t : State} (h : receive b s = .next t) (hs : s.st ≠ .complete)
    (ht : t.st = .complete) :
    s.st = .receivingPayload ∧ frameEnd s ≤ s.wc + 1 ∧ t.wc = s.wc + 1 ∧ frameEnd t = frameEnd s := by
  obtain ⟨-, rfl⟩ | ⟨-, -, rfl⟩ | ⟨-, -, u, hu, rfl⟩ := receive_cases h
  · exact absurd ht hs
  · exact absurd ht hs
  · obtain ⟨hp, hend, rfl⟩ := receiveRule_completes hu hs ht
    exact ⟨hp, hend, rfl, rfl⟩

/-- R113: the payload's end is first reached with equality. -/
theorem Inv.completes_at_frameEnd {b : Byte} {s t : State} (hi : Inv s) (h : receive b s = .next t)
    (hs : s.st ≠ .complete) (ht : t.st = .complete) : s.wc + 1 = frameEnd s := by
  obtain ⟨hp, hend, -⟩ := receive_completes h hs ht
  obtain ⟨-, -, before, -⟩ := hi.payload hp
  exact Nat.le_antisymm before hend

/-- R116(i): the header and the payload of a complete frame fit the buffer together. -/
theorem Inv.headerSize_add_plen_le {s : State} (hi : Inv s) (hs : s.st = .complete) :
    headerSize s.ck + s.plen.toNat ≤ CAP := by
  obtain ⟨-, -, hend, ⟨hdc, -⟩, -⟩ := hi.complete hs
  have := hi.wc_le
  unfold frameEnd at hend
  omega

/-! ### The statements -/

/-- Settles O7: the move of a faulted receive is none, and no other move but `RESET`'s writes the flag. -/
theorem faultedBlockDropsBytesUntilReset : Obligations.FaultedBlockDropsBytesUntilReset := by
  unfold Obligations.FaultedBlockDropsBytesUntilReset
  refine ⟨fun b s hf => receive_of_fault b hf, fun i s t hf hi h => ?_, fun s => ⟨fullReset s, rfl, rfl⟩⟩
  exact exec_keeps (P := fun u => u.fault = true) (fun hu hm => hm.fault_of_fault hi hu) hf h

/-- Settles O8. -/
theorem byteAtAFullBufferOverruns : Obligations.ByteAtAFullBufferOverruns := by
  unfold Obligations.ByteAtAFullBufferOverruns
  exact fun b s hf hw => receive_of_full b hf hw.ge

/-- Settles O9: a byte is stored or dropped, and a receive writes the receiver's registers only. -/
theorem storedByteAndItsFrame : Obligations.StoredByteAndItsFrame := by
  unfold Obligations.StoredByteAndItsFrame
  intro b s t h
  refine ⟨fun ⟨hf, hw⟩ => ?stored, receive_dropped h, fun a => receive_cell_other h, ?frame⟩
  case stored =>
    obtain ⟨hcell, hwc⟩ := receive_stores hf hw h
    exact ⟨hcell, hwc, receive_fault hf hw h⟩
  case frame =>
    rw [receive_frame h]
    exact ⟨rfl, rfl, rfl, rfl, rfl, rfl, rfl⟩

/-- Settles O10: a complete frame lies below the cursor, and a byte is stored nowhere else. -/
theorem byteInIdleOrComplete : Obligations.ByteInIdleOrComplete := by
  unfold Obligations.ByteInIdleOrComplete
  refine ⟨fun b s hf hw hs => receive_idle b hf hw hs, fun b s t hi hs h a ha => ?_⟩
  obtain ⟨-, -, hend, -⟩ := hi.complete hs
  exact receive_cell_eq h (.inl (Nat.lt_of_lt_of_le ha hend))

/-- Settles O11: the word that ends at the cursor is `SYNC_CK`, else `SYNC_NOCK`, else no sync word. -/
theorem syncDetectionInSent : Obligations.SyncDetectionInSent := by
  unfold Obligations.SyncDetectionInSent
  intro b s hf hw hs
  split
  · rename_i hck
    have ck : ckOf s.cfg s.cfg.syncCk = true := by simp [ckOf]
    have found := receive_of_match hf hw hs hck.1 hck.2 (by simp [isSync])
    rwa [ck] at found
  · rename_i hck
    split
    · rename_i hnock
      have ck : ckOf s.cfg s.cfg.syncNock = false := by
        simpa [ckOf, hnock.1, hnock.2] using hck
      have found := receive_of_match hf hw hs hnock.1 hnock.2 (by simp [isSync])
      rwa [ck] at found
    · rename_i hnock
      refine receive_of_no_match hf hw hs (or_iff_not_imp_left.mpr fun h0 => ?_)
      have hpos : 1 ≤ s.wc := Nat.pos_of_ne_zero h0
      simpa [isSync, hpos] using And.intro hck hnock

/-- Settles O12: the length byte is read after the store, which may have written it. -/
theorem headerEnd : Obligations.HeaderEnd := by
  unfold Obligations.HeaderEnd
  intro b s hi hf hw hs
  split
  · rename_i hd
    have length : lengthByte (store b s) = if s.hc + 3 = s.wc then b else cell s (s.hc + 3) := cell_store b s _
    rw [← length]
    exact receive_headerEnd b hf hw hs hd (hi.lengthByte_within hw hs hd)
  · rename_i hd
    exact receive_header b hf hw hs (Nat.lt_of_not_le hd)

/-- Settles O13. -/
theorem payloadEnd : Obligations.PayloadEnd := by
  unfold Obligations.PayloadEnd
  intro b s hf hw hs
  rw [exec_rx, receive_payload b hf hw hs, finishPayload_eq (s := store b s) hs]
  rfl

/-- Settles O14: the invariant keeps the cursor below the next threshold, and no part ends before its threshold. -/
theorem thresholdsFirstPassWithEquality : Obligations.ThresholdsFirstPassWithEquality := by
  unfold Obligations.ThresholdsFirstPassWithEquality
  intro b s t hi hf hw h
  have hi' : Inv t := hi.after_receive h
  refine ⟨fun _ ht => ?sync, fun hs ht => ?header, fun _ ht => ?payload, fun hs ht => ?complete⟩
  case sync =>
    obtain ⟨-, below, -⟩ := hi'.header ht
    exact below
  case header =>
    obtain ⟨-, below, -⟩ := hi.header hs
    exact Nat.le_antisymm below (receive_endsHeader hf hw h hs ht)
  case payload =>
    obtain ⟨-, -, below, -⟩ := hi'.payload ht
    exact below
  case complete => exact hi.completes_at_frameEnd h (by simp [hs]) ht

/-- Settles O15: the completing byte is stored at the payload's last index, so that index is one of the buffer's. -/
theorem completionPoint : Obligations.CompletionPoint := by
  unfold Obligations.CompletionPoint
  refine ⟨fun b s t hi h hs ht => ?point, fun b s t hi hs hcap h => ?never⟩
  case point =>
    have hi' : Inv t := hi.after_receive h
    obtain ⟨-, -, hwc, hend⟩ := receive_completes h hs ht
    have at_end : t.wc = frameEnd t := by rw [hwc, hend, hi.completes_at_frameEnd h hs ht]
    have size := hi'.headerSize_add_plen_le ht
    refine ⟨at_end, le_of_eq_of_le at_end.symm hi'.wc_le, ?_⟩
    cases hck : t.ck with
    | true =>
      rw [hck] at size
      exact Nat.le_of_add_le_add_left (a := 6) size
    | false =>
      rw [hck] at size
      exact Nat.le_of_add_le_add_left (a := 4) size
  case never =>
    by_cases hd : s.fault = true ∨ CAP ≤ s.wc
    · obtain ⟨-, -, hst⟩ := receive_dropped h hd
      exact hst.trans hs
    · obtain ⟨hf, hw⟩ : s.fault = false ∧ s.wc < CAP := by simpa using hd
      cases (receive_payload b hf hw hs).symm.trans h
      rw [advance_st, finishPayload_eq (s := store b s) hs]
      exact if_neg (Nat.not_le_of_lt (Nat.lt_of_le_of_lt hw hcap))

/-- Settles O17: the frame is its header, and a length byte of 0 ends it there. -/
theorem zeroLengthReplyEndsInIdle : Obligations.ZeroLengthReplyEndsInIdle := by
  unfold Obligations.ZeroLengthReplyEndsInIdle
  intro s ty ck hc hf hs hw
  have header := receiveAll_replyHeader hw ty ck hc hf hs 0
  rw [if_pos rfl, storeAll_eq, replyHeader_length, hw, Nat.zero_add] at header
  have delivered : exec (.frameReply ty ck []) s = receiveAll (replyHeader s.cfg ty 0 ck) s := by
    rw [← List.append_nil (replyHeader s.cfg ty 0 ck)]
    exact congrArg (receiveAll · s) (replyFrame_eq s.cfg ty ck [])
  refine ⟨_, delivered.trans header, rfl, fun a ha => ?_⟩
  exact cell_storeAll_other _ s (.inr (by simpa [hw] using ha))

end Sys2Proof.Machine
end

section
/-! The codec (41_codec.md R130 to R137): the request frame byte by byte, the comparison that `VERIFY_CHECKSUM` makes, and what
the sum sees of the payload. -/

namespace Sys2Proof.Machine

/-! ### The request frame -/

theorem loByte_eq_ofNat (v : Half) : loByte v = BitVec.ofNat 8 v.toNat := rfl

theorem hiByte_eq_ofNat (v : Half) : hiByte v = BitVec.ofNat 8 (v.toNat / 256) :=
  congrArg (BitVec.ofNat 8) (Nat.shiftRight_eq_div_pow v.toNat 8)

/-- R130. -/
theorem execEncodeRequest_of_le (req : Byte) {pl : List Byte} (s : State) (h : pl.length ≤ maxPayload) :
    execEncodeRequest req pl s = .next (evaluate (.frame (requestFrame s.cfg req pl)) s) :=
  admitted_of _ (decide_eq_true h)

/-- R132. -/
theorem execEncodeRequest_of_long (req : Byte) {pl : List Byte} (s : State) (h : maxPayload < pl.length) :
    execEncodeRequest req pl s = .refused .badDescriptor :=
  admitted_of_false _ (decide_eq_false (Nat.not_le_of_lt h))

/-! ### The comparison -/

/-- R50: the field and the payload, when both lie inside the buffer, are all that `VERIFY_CHECKSUM` reads. -/
theorem checksumTop_le {s : State} (hfield : s.hc + 6 ≤ CAP) (hpayload : s.dc + (lengthByte s).toNat ≤ CAP) :
    checksumTop s ≤ CAP := by
  refine Nat.max_le.mpr ⟨hfield, ?_⟩
  split
  · exact Nat.zero_le _
  · exact hpayload

/-- R133. -/
theorem execVerifyChecksum_of_le {s : State} (h : checksumTop s ≤ CAP) :
    execVerifyChecksum s = .next (evaluate (.check (checksumMatches s)) s) :=
  within_of_le _ h

/-- R134 over the buffer. -/
theorem checksum_bytesAt_toNat (s : State) (i n : Nat) :
    (checksum (bytesAt s i n)).toNat = ((List.range n).map fun k => (cell s (i + k)).toNat).sum % 2 ^ 16 := by
  rw [checksum_toNat, bytesAt_eq_map, List.map_map]
  rfl

/-- R133, R134: the comparison as one of natural numbers. -/
theorem checksumMatches_eq_decide (s : State) :
    checksumMatches s = decide
      (((List.range (lengthByte s).toNat).map fun k => (cell s (s.dc + k)).toNat).sum % 2 ^ 16
        = (cell s (s.hc + 4)).toNat + 256 * (cell s (s.hc + 5)).toNat) := by
  rw [← checksum_bytesAt_toNat, ← le16_toNat]
  exact decide_eq_decide.mpr BitVec.toNat_inj.symm

/-! ### What the sum sees of the payload -/

/-- Whatever changes a byte, and not only a flipped bit, changes the sum when applied to one byte of the list. -/
theorem checksum_modify_ne {f : Byte → Byte} (hf : ∀ b, f b ≠ b) {pl : List Byte} {j : Nat} (hj : j < pl.length) :
    checksum (pl.modify j f) ≠ checksum pl := by
  induction pl generalizing j with
  | nil => exact absurd hj (Nat.not_lt_zero j)
  | cons b bs ih =>
    cases j with
    | zero =>
      intro (same : (f b).setWidth 16 + checksum bs = b.setWidth 16 + checksum bs)
      have widened : (f b).setWidth 16 = b.setWidth 16 := add_right_cancel same
      exact hf b (by simpa using congrArg (BitVec.setWidth 8) widened)
    | succ j =>
      intro (same : b.setWidth 16 + checksum (bs.modify j f) = b.setWidth 16 + checksum bs)
      exact ih (Nat.lt_of_succ_lt_succ hj) (add_left_cancel same)

theorem xor_twoPow_ne {w k : Nat} (hk : k < w) (b : BitVec w) : b ^^^ BitVec.twoPow w k ≠ b := by
  intro same
  have bit : (b ^^^ BitVec.twoPow w k).getLsbD k = b.getLsbD k := by rw [same]
  simp [hk] at bit

/-- R136(c): bytes no more than a length byte can count have a sum below 2^16. -/
theorem sum_toNat_lt {l : List Byte} (h : l.length ≤ maxPayload) : (l.map BitVec.toNat).sum < 65536 := by
  have bound : (l.map BitVec.toNat).sum ≤ (l.map BitVec.toNat).length * 255 :=
    List.sum_le_card_nsmul _ 255 fun n hn => by
      obtain ⟨b, -, rfl⟩ := List.mem_map.mp hn
      exact Nat.le_of_lt_succ b.isLt
  have short : l.length ≤ 255 := h
  rw [List.length_map] at bound
  omega

/-! ### The statements -/

/-- Settles O20: the bytes of a 16-bit value are its remainder and its quotient by 256. -/
theorem requestFrameBytes : Obligations.RequestFrameBytes := by
  unfold Obligations.RequestFrameBytes
  refine fun req pl s => ⟨fun hpl => ?frame, execEncodeRequest_of_long req s⟩
  case frame =>
    rw [← loByte_eq_ofNat, ← hiByte_eq_ofNat]
    exact execEncodeRequest_of_le req s hpl

/-- Settles O21: the bytes the comparison reads lie inside the buffer, and equal words have equal values. -/
theorem checksumIsTheSumModulo65536 : Obligations.ChecksumIsTheSumModulo65536 := by
  unfold Obligations.ChecksumIsTheSumModulo65536
  intro s hfield hpayload
  calc exec .verifyChecksum s
      = .next (evaluate (.check (checksumMatches s)) s) := execVerifyChecksum_of_le (checksumTop_le hfield hpayload)
    _ = _ := by
        rw [checksumMatches_eq_decide]
        rfl

/-- Settles O22: the flip changes a byte, and that changes the sum. -/
theorem singleBitFlipChangesTheSum : Obligations.SingleBitFlipChangesTheSum := by
  unfold Obligations.SingleBitFlipChangesTheSum
  exact fun pl j k hj hk => checksum_modify_ne (xor_twoPow_ne hk) hj

/-- Settles O23: 255 bytes of 255 stay below 2^16, so the length byte's own range is enough and the tighter bound of a frame
that fits the buffer is not needed. -/
theorem checksumNeverWrapsInAHarvest : Obligations.ChecksumNeverWrapsInAHarvest := by
  unfold Obligations.ChecksumNeverWrapsInAHarvest
  intro s _ _ _
  have short : (bytesAt s s.dc s.plen.toNat).length ≤ maxPayload := by
    rw [bytesAt_length]
    exact Nat.le_of_lt_succ s.plen.isLt
  rw [checksum_toNat, Nat.mod_eq_of_lt (sum_toNat_lt short)]

end Sys2Proof.Machine
end

section
/-! The dispatcher (42_dispatcher.md R151 to R165): what a poll does in each phase and transaction state, the bytes of a start
and its completion, and what a harvest answers and depends on. -/

namespace Sys2Proof.Machine

/-! ### The start -/

/-- R130, R131: the request frame with the bytes of its sync word as a remainder and a quotient. -/
theorem requestFrame_eq_ofNat (c : Cfg) (req : Byte) (pl : List Byte) :
    requestFrame c req pl = BitVec.ofNat 8 c.syncNock.toNat :: BitVec.ofNat 8 (c.syncNock.toNat / 256) :: req
      :: BitVec.ofNat 8 pl.length :: pl := by
  rw [← loByte_eq_ofNat, ← hiByte_eq_ofNat]
  rfl

/-- R153: START_RESET where a start is enabled. -/
theorem execStartReset_of_idle {d : Descriptor} {s : State} (hw : d.wf = true) (hd : s.dph = .ready)
    (hf : s.fault = false) (hs : s.st = .idle) : execStartReset d s = .next (startTransaction d.req d.pl s) :=
  (admitted_of _ hw).trans (if_pos ⟨hd, hf, hs⟩)

/-- R154: without a byte on offer there is no step. -/
theorem sendByte_of_no_offer {s : State} (h : offered s.dph = none) : sendByte s = .next s := by
  unfold sendByte
  split
  · rfl
  · rename_i f i hd
    have ended : f[i]? = none := by rwa [hd] at h
    rw [ended]
    rfl

/-- R155: before every byte is accepted there is no step. -/
theorem finishStart_of_not_allSent {s : State} (h : allSent s.dph = false) : finishStart s = .next s :=
  if_neg (by simp [h])

theorem allSent_of_end {s : State} {f : List Byte} (hd : s.dph = .tx f f.length) : allSent s.dph = true := by
  simp [hd, allSent]

/-! ### The poll -/

/-- R156. -/
theorem pollWith_of_tx {d : Descriptor} {s : State} {f : List Byte} {i : Nat} (hw : d.wf = true)
    (hd : s.dph = .tx f i) : pollWith d s = .next s := by
  rw [pollWith, admitted_of _ hw, hd]
  rfl

section
variable {d : Descriptor} {s : State} (hw : d.wf = true) (hd : s.dph = .ready)
include hw hd

/-- R163. -/
theorem pollWith_of_fault (hf : s.fault = true) : pollWith d s = .next (answer .fault s) := by
  rw [pollWith, admitted_of _ hw, hd]
  exact if_pos hf

variable (hf : s.fault = false)
include hf

/-- R152. -/
theorem pollWith_of_idle (hs : s.st = .idle) : pollWith d s = .next (startTransaction d.req d.pl s) := by
  rw [pollWith, admitted_of _ hw, hd]
  dsimp only
  rw [if_neg (by simp [hf]), hs]

/-- R157. -/
theorem pollWith_of_underWay (hs : s.st = .sent ∨ s.st = .receivingHeader ∨ s.st = .receivingPayload) :
    pollWith d s = .next (answer .busy s) := by
  rw [pollWith, admitted_of _ hw, hd]
  dsimp only
  rw [if_neg (by simp [hf])]
  obtain hs | hs | hs := hs <;> rw [hs]

end

/-- R156: an admitted poll waits while a start transmits. -/
theorem waits_poll_of_tx {d : Descriptor} {s : State} {f : List Byte} {i : Nat} (hw : d.wf = true)
    (hd : s.dph = .tx f i) : waits s (.poll d) = true := by
  simp [waits, hw, hd]

theorem waits_poll_of_ready (d : Descriptor) {s : State} (hd : s.dph = .ready) : waits s (.poll d) = false := by
  simp [waits, hd]

theorem takeReady_cons_of_enabled {s : State} {i : Instr} (is : List Instr) (h : waits s i = false) :
    takeReady s (i :: is) = some (i, is) := by
  rw [takeReady, if_neg (by simp [h])]

/-! ### The harvest -/

/-- R158: what a harvest with result `r` leaves. -/
def harvested (r : Result) (s : State) : State := countDraws r (answer r { s with st := .idle })

section
variable {d : Descriptor} {s : State}

/-- R159. -/
theorem harvestResult_of_mismatch (hck : s.ck = true) (hsum : checksumMatches s = false) :
    harvestResult d s = .badChecksum :=
  if_pos (by simp [hck, hsum])

variable (hsum : s.ck = false ∨ checksumMatches s = true)
include hsum

/-- R217: where the checksum passes, or there is none, the type byte decides. -/
theorem harvestResult_of_passed : harvestResult d s =
    if typeByte s = d.exp then .ok (decodePayload d.dk s)
    else if typeByte s = s.cfg.typeError then .sensorError (errorCode s)
    else .typeError :=
  if_neg (by obtain h | h := hsum <;> simp [h])

/-- R160. -/
theorem harvestResult_of_expected (hty : typeByte s = d.exp) : harvestResult d s = .ok (decodePayload d.dk s) := by
  rw [harvestResult_of_passed hsum, if_pos hty]

variable (hexp : typeByte s ≠ d.exp)
include hexp

/-- R161. -/
theorem harvestResult_of_error (hty : typeByte s = s.cfg.typeError) :
    harvestResult d s = .sensorError (errorCode s) := by
  rw [harvestResult_of_passed hsum, if_neg hexp, if_pos hty]

/-- R162. -/
theorem harvestResult_of_unexpected (hty : typeByte s ≠ s.cfg.typeError) : harvestResult d s = .typeError := by
  rw [harvestResult_of_passed hsum, if_neg hexp, if_neg hty]

end

/-- R28: a complete frame lies inside the buffer. -/
theorem Inv.frameEnd_le {s : State} (hi : Inv s) (hs : s.st = .complete) : frameEnd s ≤ CAP := by
  obtain ⟨-, -, hend, -⟩ := hi.complete hs
  exact Nat.le_trans hend hi.wc_le

/-- R55, R158: in a state of the invariant a harvest reads inside the buffer and answers. -/
theorem Inv.harvestWith_next {s : State} (hi : Inv s) (hs : s.st = .complete) (d : Descriptor) :
    harvestWith d s = .next (harvested (harvestResult d s) s) :=
  within_of_le _ (Nat.le_trans (hi.harvestTop_le hs d) (hi.frameEnd_le hs))

/-! ### The rows that complete a poll -/

section
variable {d : Descriptor} {s : State} (hw : d.wf = true)
include hw

/-- R155: a completion row at the end of a start is SET_SENT, if its result is the start's. -/
theorem completeWith_of_start {f : List Byte} {r : Result} (hd : s.dph = .tx f f.length) (hr : startResult s = r) :
    completeWith (resultKind r) d s = .next (answer r { s with st := .sent, dph := .ready }) := by
  subst hr
  have completes : completion d s = some (startResult s) := by simp [completion, hd, allSent]
  have isFinish : completionStep d s = finishStart s := by simp [completionStep, hd]
  rw [completeWith_of hw completes, isFinish, finishStart_of_allSent (allSent_of_end hd)]

variable (hd : s.dph = .ready)
include hd

theorem completeWith_of_poll {r : Result} (hr : completion d s = some r) :
    completeWith (resultKind r) d s = pollWith d s :=
  (completeWith_of hw hr).trans (completionStep_ready hd)

/-- R163. -/
theorem execFaultResult_of_fault (hf : s.fault = true) : execFaultResult d s = .next (answer .fault s) := by
  have completes : completion d s = some .fault := by simp [completion, hd, hf]
  exact (completeWith_of_poll hw hd completes).trans (pollWith_of_fault hw hd hf)

variable (hf : s.fault = false)
include hf

/-- R157. -/
theorem execBusy_of_underWay (hs : s.st = .sent ∨ s.st = .receivingHeader ∨ s.st = .receivingPayload) :
    execBusy d s = .next (answer .busy s) := by
  have completes : completion d s = some .busy := by
    obtain hs | hs | hs := hs <;> simp [completion, hd, hf, hs]
  exact (completeWith_of_poll hw hd completes).trans (pollWith_of_underWay hw hd hf hs)

variable (hi : Inv s) (hs : s.st = .complete) {r : Result} (hr : harvestResult d s = r)
include hi hs hr

/-- R158: a poll that harvests. -/
theorem pollWith_of_harvestResult : pollWith d s = .next (harvested r s) := by
  rw [pollWith_complete hw hd hf hs, hi.harvestWith_next hs, hr]

theorem execHarvest_of_harvestResult : execHarvest d s = .next (harvested r s) := by
  rw [execHarvest, admitted_of _ hw, if_pos ⟨hd, hf, hs⟩, hi.harvestWith_next hs, hr]

/-- R158 by the poll and by the step it drives. -/
theorem poll_and_harvest_of_harvestResult :
    exec (.poll d) s = .next (harvested r s) ∧ exec (.harvest d) s = .next (harvested r s) :=
  ⟨pollWith_of_harvestResult hw hd hf hi hs hr, execHarvest_of_harvestResult hw hd hf hi hs hr⟩

/-- A completion row in `Complete` is the harvest, if its result is the harvest's. -/
theorem completeWith_of_harvestResult : completeWith (resultKind r) d s = .next (harvested r s) := by
  have completes : completion d s = some r := by simp [completion, hd, hf, hs, hr]
  exact (completeWith_of_poll hw hd completes).trans (pollWith_of_harvestResult hw hd hf hi hs hr)

end

/-- R193, R21: the status row of the state that the block is in. -/
theorem statusIs_of {k : TState} {s : State} (h : s.st = k) :
    statusIs k s = .next (put (.status (stCode k) s.fault) s) := by
  rw [statusIs, if_pos h, statusWord, h]

/-! ### What a harvest depends on -/

/-- R165: two states with the same parameters, header registers and bytes of the frame. -/
structure SameFrame (s u : State) : Prop where
  cfg : s.cfg = u.cfg
  hc : s.hc = u.hc
  dc : s.dc = u.dc
  plen : s.plen = u.plen
  ck : s.ck = u.ck
  cells : ∀ a, s.hc ≤ a → a < frameEnd s → cell s a = cell u a

/-- R183: a walk depends on the parameters and on the bytes it passes over. -/
theorem walk_congr {s u : State} {stop : Nat} (hcfg : s.cfg = u.cfg) {fuel p : Nat}
    (h : ∀ a, p ≤ a → a < stop → cell s a = cell u a) (acc : TlvAcc) :
    walk s stop fuel p acc = walk u stop fuel p acc := by
  induction fuel generalizing p acc with
  | zero => rfl
  | succ fuel ih =>
    rw [walk_succ, walk_succ]
    by_cases room : p + 2 ≤ stop
    · rw [h p (by omega) (by omega), h (p + 1) (by omega) (by omega), hcfg]
      split
      · exact ih (fun a ha => h a (by omega)) _
      · rfl
    · rw [if_neg (by omega), if_neg (by omega)]

section
variable {s u : State} (h : SameFrame s u)
include h

theorem SameFrame.frameEnd_eq : frameEnd s = frameEnd u := by
  rw [frameEnd, frameEnd, h.dc, h.plen]

/-- R181 to R183: a decoder reads the registers and the payload. -/
theorem SameFrame.decodePayload_eq (hdc : s.hc ≤ s.dc) (k : DecodeKind) : decodePayload k s = decodePayload k u := by
  cases k with
  | fixed => rw [decodePayload, decodePayload, decodeFixed, decodeFixed, h.dc, h.plen]
  | array rs => rw [decodePayload, decodePayload, decodeArray, decodeArray, h.dc, h.plen]
  | tlv =>
    have walks := walk_congr h.cfg (fuel := walkFuel s) (p := s.dc) (fun a ha => h.cells a (by omega)) {}
    have passes : walkFuel s = walkFuel u := by rw [walkFuel, walkFuel, h.plen]
    exact congrArg tlvOut (walks.trans (by rw [passes, h.frameEnd_eq, h.dc]))

/-- R190: an error code whose four bytes lie in the payload depends on no draw. -/
theorem SameFrame.errorCode_eq (hdc : s.hc ≤ s.dc) (hcap : frameEnd s ≤ CAP) (hlen : 4 ≤ s.plen.toNat) :
    errorCode s = errorCode u := by
  have byte : ∀ k, k < 4 → byteOrDraw s k = byteOrDraw u k := by
    intro k hk
    have inside : s.dc + k < frameEnd s := by rw [frameEnd]; omega
    rw [byteOrDraw, byteOrDraw, ← h.dc, if_pos (by omega), if_pos (by omega), h.cells _ (by omega) inside]
  rw [errorCode, errorCode, byte 0 (by omega), byte 1 (by omega), byte 2 (by omega), byte 3 (by omega)]

/-- R133: the comparison reads the header and the payload. -/
theorem SameFrame.checksumMatches_eq (hdc : s.dc = s.hc + 6) (hlen : s.plen = lengthByte s)
    (hend : s.dc < frameEnd s) : checksumMatches s = checksumMatches u := by
  have header : ∀ k, k < 6 → cell s (s.hc + k) = cell u (u.hc + k) := by
    intro k hk
    rw [← h.hc]
    exact h.cells _ (by omega) (by omega)
  have len : lengthByte s = lengthByte u := header 3 (by omega)
  have field : checksumField s = checksumField u := congrArg₂ le16 (header 4 (by omega)) (header 5 (by omega))
  have payload : bytesAt s s.dc (lengthByte s).toNat = bytesAt u s.dc (lengthByte s).toNat := by
    refine bytesAt_congr fun a ha hlt => h.cells a (by omega) ?_
    rwa [frameEnd, hlen]
  rw [checksumMatches, checksumMatches, payload, field, len, h.dc]

end

/-- R165: no test of a harvest and no decoder looks outside the frame. -/
theorem Inv.harvestResult_of_sameFrame {s u : State} (hi : Inv s) (hs : s.st = .complete) (h : SameFrame s u)
    (hlen : 4 ≤ s.plen.toNat ∨ typeByte s ≠ s.cfg.typeError) (d : Descriptor) :
    harvestResult d s = harvestResult d u := by
  obtain ⟨-, hend, -, ⟨hdc, -⟩, hplen, -⟩ := hi.complete hs
  have size := four_le_headerSize s.ck
  have type : typeByte s = typeByte u := by
    rw [typeByte, typeByte, ← h.hc]
    exact h.cells _ (by omega) (by omega)
  have checksum : (s.ck && !checksumMatches s) = (u.ck && !checksumMatches u) := by
    rw [← h.ck]
    cases hck : s.ck with
    | false => rfl
    | true =>
      have data : s.dc = s.hc + 6 := by rw [hdc, hck]; rfl
      rw [h.checksumMatches_eq data hplen hend]
  have payload := h.decodePayload_eq (by omega) d.dk
  have error : typeByte s = s.cfg.typeError → errorCode s = errorCode u := fun hty =>
    h.errorCode_eq (by omega) (hi.frameEnd_le hs) (hlen.resolve_right (not_not_intro hty))
  rw [harvestResult, harvestResult, ← checksum, ← type, ← payload, ← h.cfg]
  by_cases hty : typeByte s = s.cfg.typeError
  · rw [error hty]
  · rw [if_neg hty, if_neg hty]

/-- R158: what is seen of a poll in `Complete`. -/
theorem outs_of_poll_complete {d : Descriptor} {s t : State} (hd : s.dph = .ready) (hf : s.fault = false)
    (hs : s.st = .complete) (h : exec (.poll d) s = .next t) :
    t.outs = s.outs ++ [.result (harvestResult d s)] := by
  obtain ⟨hw, -⟩ := admitted_next_iff.mp h
  obtain ⟨-, rfl⟩ := harvestWith_cases ((pollWith_complete hw hd hf hs).symm.trans h)
  simp

/-! ### The statements -/

/-- Settles O29: a poll waits while a start transmits, and with the dispatcher ready the oldest held one is enabled. -/
theorem pollIsHeldWhileAStartTransmits : Obligations.PollIsHeldWhileAStartTransmits := by
  unfold Obligations.PollIsHeldWhileAStartTransmits
  refine ⟨fun d f i s hw hd => pollWith_of_tx hw hd, fun d f i w rest ws s hd hr hin hdec => ?offered,
    fun d js s hd hheld => ?held⟩
  case offered =>
    have hw : d.wf = true := (encodeOfDecodeIsTheWord w (.poll d) rest hdec).1
    exact step_of_waiting hr hin (decodeWord_of_ok hdec) (waits_poll_of_tx hw hd)
  case held =>
    have oldest : takeReady s s.held = some (.poll d, js) := by
      rw [hheld]
      exact takeReady_cons_of_enabled js (waits_poll_of_ready d hd)
    exact step_of_held oldest

/-- Settles O31. -/
theorem harvestOfABadChecksum : Obligations.HarvestOfABadChecksum := by
  unfold Obligations.HarvestOfABadChecksum
  rintro d s _ hi hw hd hf hs hck hsum rfl
  exact poll_and_harvest_of_harvestResult hw hd hf hi hs (harvestResult_of_mismatch hck hsum)

/-- Settles O32. -/
theorem harvestOfTheExpectedType : Obligations.HarvestOfTheExpectedType := by
  unfold Obligations.HarvestOfTheExpectedType
  rintro d s _ hi hw hd hf hs hsum hty rfl
  exact poll_and_harvest_of_harvestResult hw hd hf hi hs (harvestResult_of_expected hsum hty)

/-- Settles O33. -/
theorem harvestOfASensorError : Obligations.HarvestOfASensorError := by
  unfold Obligations.HarvestOfASensorError
  rintro d s _ hi hw hd hf hs hsum hexp hty rfl
  exact poll_and_harvest_of_harvestResult hw hd hf hi hs (harvestResult_of_error hsum hexp hty)

/-- Settles O34. -/
theorem harvestOfAnUnexpectedType : Obligations.HarvestOfAnUnexpectedType := by
  unfold Obligations.HarvestOfAnUnexpectedType
  rintro d s _ hi hw hd hf hs hsum hexp hty rfl
  exact poll_and_harvest_of_harvestResult hw hd hf hi hs (harvestResult_of_unexpected hsum hexp hty)

/-- Settles O35: each row's trigger is the completion with its result, or the state of its code. -/
theorem resultAndStatusRowsRunTheirStep : Obligations.ResultAndStatusRowsRunTheirStep := by
  unfold Obligations.ResultAndStatusRowsRunTheirStep
  refine ⟨fun d s hi hw hd hf hs => ?harvest, fun d s hw hd hf => execFaultResult_of_fault hw hd hf,
    fun d s hw hd hf hs => execBusy_of_underWay hw hd hf hs, fun d f s hw hd => ?start, fun s => ?status⟩
  case harvest =>
    have row {r : Result} (hr : harvestResult d s = r) := completeWith_of_harvestResult hw hd hf hi hs hr
    exact ⟨fun hck hsum => row (harvestResult_of_mismatch hck hsum), fun hsum =>
      ⟨fun hty => row (harvestResult_of_expected hsum hty),
        fun hexp hty => row (harvestResult_of_error hsum hexp hty),
        fun hexp hty => row (harvestResult_of_unexpected hsum hexp hty)⟩⟩
  case start =>
    exact ⟨fun hf => completeWith_of_start hw hd (r := .busy) (by simp [startResult, hf]),
      fun hf => completeWith_of_start hw hd (r := .fault) (by simp [startResult, hf])⟩
  case status => exact ⟨statusIs_of, statusIs_of, statusIs_of, statusIs_of, statusIs_of⟩

/-- Settles O36: both polls answer their harvest's result, and the frame decides it. -/
theorem harvestDependsOnTheFrameOnly : Obligations.HarvestDependsOnTheFrameOnly := by
  unfold Obligations.HarvestDependsOnTheFrameOnly
  intro d s u s' u' hi _ hd hd' hf hf' hs hs' hcfg hhc hdc hplen hck hcells hlen h h'
  have same := hi.harvestResult_of_sameFrame hs ⟨hcfg, hhc, hdc, hplen, hck, hcells⟩ hlen d
  refine ⟨harvestResult d s, outs_of_poll_complete hd hf hs h, ?_⟩
  rw [same]
  exact outs_of_poll_complete hd' hf' hs' h'

/-- Settles O24. -/
theorem pollWhileFaulted : Obligations.PollWhileFaulted := by
  unfold Obligations.PollWhileFaulted
  exact fun d s hw hd hf => pollWith_of_fault hw hd hf

/-- Settles O25: an answer leaves what the poll looks at, so the second poll finds the same. -/
theorem pollUnderWayIsBusy : Obligations.PollUnderWayIsBusy := by
  unfold Obligations.PollUnderWayIsBusy
  intro d s hw hd hf hs
  have busy : exec (.poll d) s = .next (answer .busy s) := pollWith_of_underWay hw hd hf hs
  refine ⟨busy, fun d' t hw' ht => ?_⟩
  cases busy.symm.trans ht
  exact pollWith_of_underWay (s := answer .busy s) hw' hd hf hs

/-- Settles O26: both are the start of the request. -/
theorem startResetsTheWriteCursorAndLatchesTheFrame : Obligations.StartResetsTheWriteCursorAndLatchesTheFrame := by
  unfold Obligations.StartResetsTheWriteCursorAndLatchesTheFrame
  intro d s hw hd hf hs
  rw [← requestFrame_eq_ofNat]
  have starts := execStartReset_of_idle hw hd hf hs
  exact ⟨starts, (pollWith_of_idle hw hd hf hs).trans starts.symm⟩

/-- Settles O27: a byte inside the frame is on offer, and none is with the dispatcher ready or at the frame's end. -/
theorem txackEmitsTheByteOnOffer : Obligations.TxackEmitsTheByteOnOffer := by
  unfold Obligations.TxackEmitsTheByteOnOffer
  refine ⟨fun f i b s hd hb => ⟨sendByte_of_offer hd hb, sendByte_of_offer hd hb⟩, fun s h => ?noOffer⟩
  case noOffer =>
    have nothing : offered s.dph = none := by
      obtain hd | ⟨f, hd⟩ := h <;> simp [hd, offered]
    exact ⟨sendByte_of_no_offer nothing, sendByte_of_no_offer nothing⟩

/-- Settles O28: SET_SENT is enabled exactly where every byte is accepted. -/
theorem setSentCompletesTheStart : Obligations.SetSentCompletesTheStart := by
  unfold Obligations.SetSentCompletesTheStart
  refine ⟨fun f s hd => finishStart_of_allSent (allSent_of_end hd), fun f i s h => ?pending⟩
  case pending =>
    refine finishStart_of_not_allSent ?_
    obtain hd | ⟨hd, hi⟩ := h
    · simp [hd, allSent]
    · simpa [hd, allSent] using Nat.ne_of_lt hi

end Sys2Proof.Machine
end

section
/-! The decoders and the two read ports (43_decoder.md R180 to R193): where a walk has ended, the bytes of an error code, the
views over the payload, and what a read shows. -/

namespace Sys2Proof.Machine

/-! ### Where a walk has ended -/

/-- R187: where not even a prefix fits, the walk ends. -/
theorem walk_of_no_prefix {s : State} {stop p : Nat} (h : stop < p + 2) (fuel : Nat) (acc : TlvAcc) :
    walk s stop fuel p acc = acc := by
  cases fuel with
  | zero => rfl
  | succ fuel => rw [walk_succ, if_neg (by omega)]

/-- R189: each pass takes two bytes at least, so `fuel` passes leave nothing to do where no more than `fuel` prefixes fit. -/
theorem walk_fuel_add {s : State} {stop fuel p : Nat} (h : stop < p + 2 * fuel + 2) (n : Nat) (acc : TlvAcc) :
    walk s stop (fuel + n) p acc = walk s stop fuel p acc := by
  induction fuel generalizing p acc with
  | zero => rw [walk_of_no_prefix h, walk_of_no_prefix h]
  | succ fuel ih =>
    rw [Nat.add_right_comm, walk_succ, walk_succ, ih (by omega)]

/-! ### The error code -/

theorem extractLsb'_append_lowByte {n : Nat} (hi : BitVec n) (lo : Byte) : (hi ++ lo).extractLsb' 0 8 = lo :=
  (BitVec.extractLsb'_append_eq_of_add_le (Nat.le_refl 8)).trans BitVec.extractLsb'_eq_self

theorem extractLsb'_append_aboveByte {n : Nat} (hi : BitVec n) (lo : Byte) (i : Nat) :
    (hi ++ lo).extractLsb' (8 + i) 8 = hi.extractLsb' i 8 := by
  rw [BitVec.extractLsb'_append_eq_of_le (Nat.le_add_right 8 i), Nat.add_sub_cancel_left]

/-- R53: byte `k` of a four-byte little-endian value is the `k`-th byte it was made of. -/
theorem extractLsb'_le32 (b : Nat → Byte) {k : Nat} (hk : k < 4) :
    (le32 (b 0) (b 1) (b 2) (b 3)).extractLsb' (8 * k) 8 = b k := by
  have above1 := extractLsb'_append_aboveByte (b 3 ++ b 2 ++ b 1) (b 0)
  have above2 := extractLsb'_append_aboveByte (b 3 ++ b 2) (b 1)
  match k, hk with
  | 0, _ => exact extractLsb'_append_lowByte _ (b 0)
  | 1, _ => exact (above1 0).trans (extractLsb'_append_lowByte _ (b 1))
  | 2, _ => exact (above1 8).trans ((above2 0).trans (extractLsb'_append_lowByte (b 3) (b 2)))
  | 3, _ =>
    exact (above1 16).trans ((above2 8).trans
      ((extractLsb'_append_aboveByte (b 3) (b 2) 0).trans BitVec.extractLsb'_eq_self))

/-! ### The statements -/

/-- Settles O43: the payload holds no more than `plen / 2` prefixes. -/
theorem walkEndsWithinItsPasses : Obligations.WalkEndsWithinItsPasses := by
  unfold Obligations.WalkEndsWithinItsPasses
  exact fun s acc n => walk_fuel_add (by omega) n acc

/-- Settles O44: the code is made of the four bytes, each from the buffer or drawn. -/
theorem errorCodeIsFourRawBytes : Obligations.ErrorCodeIsFourRawBytes := by
  unfold Obligations.ErrorCodeIsFourRawBytes
  exact fun s => ⟨errorCode s, rfl, fun _ hk => extractLsb'_le32 (byteOrDraw s) hk⟩

/-- Settles O38: the fixed decoder reads no byte of the buffer, so it always answers. -/
theorem fixedDecoderOverlaysThePayload : Obligations.FixedDecoderOverlaysThePayload := by
  unfold Obligations.FixedDecoderOverlaysThePayload
  exact fun s => ⟨evaluateDecoder_of (k := .fixed) rfl (Nat.zero_le CAP), rfl⟩

/-- Settles O39: an admitted array decoder reads no byte of the buffer, so it always answers. -/
theorem arrayDecoderCountsWholeRecords : Obligations.ArrayDecoderCountsWholeRecords := by
  unfold Obligations.ArrayDecoderCountsWholeRecords
  intro rs s hrs
  have hw : (DecodeKind.array rs).wf = true := bne_iff_ne.mpr hrs
  exact ⟨evaluateDecoder_of hw (Nat.zero_le CAP), rfl⟩

/-- Settles O45: the row is a `put` of the byte at the index. -/
theorem viewReadsTheByteAsItStands : Obligations.ViewReadsTheByteAsItStands := by
  unfold Obligations.ViewReadsTheByteAsItStands
  exact fun a s => rfl

/-- Settles O46: the row is a `put` of the status word, whose code is read off state by state (R21). -/
theorem statusShowsTheStateAndTheFault : Obligations.StatusShowsTheStateAndTheFault := by
  unfold Obligations.StatusShowsTheStateAndTheFault
  intro s
  refine congrArg (fun code => Host.Outcome.next (put (.status code s.fault) s)) ?code
  cases s.st <;> rfl

end Sys2Proof.Machine
end

section
/-! A transaction under way (60_exceptions.md R219, R250): the moves that can write `st` while a reply is awaited. -/

namespace Sys2Proof.Machine

/-- R30, R155: a start has every byte accepted only in `Idle`, where R28 keeps `st` while it transmits. -/
theorem Inv.idle_of_allSent {s : State} (hi : Inv s) (ha : allSent s.dph = true) : s.st = .idle := by
  cases hd : s.dph with
  | ready => simp [hd, allSent] at ha
  | tx f k => exact (hi.starting f k hd).1

/-- R250: of the moves that write `st`, a harvest is made in `Complete` and a start completes in `Idle`, so from any other state
only a received byte and `RESET` write it. -/
theorem Inv.move_st_eq {i : Instr} {s t : State} (hi : Inv s) (hidle : s.st ≠ .idle) (hcomplete : s.st ≠ .complete)
    (hr : isReceive i = false) (hreset : i ≠ .reset) (h : Move i s t) : t.st = s.st := by
  cases h with
  | receive hr' _ => simp [hr] at hr'
  | reset hi' => exact absurd hi' hreset
  | finish ha => exact absurd (hi.idle_of_allSent ha) hidle
  | harvest hs => exact absurd hs hcomplete
  | _ => rfl

/-- Settles O37: every move of such a row keeps the invariant together with the state it found. -/
theorem onlyBytesOrResetMoveATransactionUnderWay : Obligations.OnlyBytesOrResetMoveATransactionUnderWay := by
  unfold Obligations.OnlyBytesOrResetMoveATransactionUnderWay
  intro i s t hi hs hr hreset h
  have hidle : s.st ≠ .idle := fun e => by simp [e] at hs
  have hcomplete : s.st ≠ .complete := fun e => by simp [e] at hs
  have kept : Inv t ∧ t.st = s.st := by
    refine exec_keeps (P := fun u => Inv u ∧ u.st = s.st) ?_ ⟨hi, rfl⟩ h
    rintro u v ⟨hu, e⟩ hm
    rw [← e] at hidle hcomplete
    exact ⟨hu.after_move hm, (hu.move_st_eq hidle hcomplete hr hreset hm).trans e⟩
  exact kept.2

end Sys2Proof.Machine
end

section
/-! Reset and what was seen (70_reset_and_hazards.md R240, R256): the values `RESET` writes, and the outputs, which no move takes
back. -/

namespace Sys2Proof.Machine

/-- R100: a receive is seen at no output port. -/
theorem receive_outs {b : Byte} {s t : State} (h : receive b s = .next t) : t.outs = s.outs := by
  rw [receive_frame h]

/-- R256: a move appends one output or none. -/
theorem Move.outs_prefix {i : Instr} {s t : State} (h : Move i s t) : s.outs <+: t.outs := by
  cases h with
  | put o => exact List.prefix_append s.outs [o]
  | receive _ hr => exact (receive_outs hr).symm ▸ List.prefix_rfl
  | _ => exact List.prefix_rfl

/-- Settles O58: every move keeps the outputs before the step as a prefix, and what is offered and held is not among them. -/
theorem observationsOnlyGrow : Obligations.ObservationsOnlyGrow := by
  unfold Obligations.ObservationsOnlyGrow
  intro s t h
  exact step_keeps (P := fun u => s.outs <+: u.outs) (fun hu hm => hu.trans hm.outs_prefix)
    (fun _ _ => List.prefix_rfl) h

/-- Settles O47: `RESET` is the full reset, which makes no test before it writes (R240). -/
theorem resetClearsEveryRegisterButTheBuffer : Obligations.ResetClearsEveryRegisterButTheBuffer := by
  unfold Obligations.ResetClearsEveryRegisterButTheBuffer
  exact fun s => rfl

end Sys2Proof.Machine
end
